-- ==== Sys2Proof/Word.lean ====
section
/-!
DEFINITION. Word: the fixed sizes of the block (00_scope.md R8) as bit-vector types.
Bit 0 is the least significant bit everywhere (R9) and every value is unsigned (R10), which is how `BitVec` numbers and
reads its bits.
-/

namespace Sys2Proof

/-- One port bit: 0 or 1, nothing else can be written down (92_eei_decisions.md D17). -/
abbrev Bit := BitVec 1

/-- A nibble is 4 bits (R8). -/
abbrev Nibble := BitVec 4

/-- A byte is 8 bits (R8). -/
abbrev Byte := BitVec 8

/-- The magnitude is 16 bits, `MAG_W` = 16 (R8). -/
abbrev Magnitude := BitVec 16

/-- A request word `REQ[20:0]`, format `REQ21` (30_encoding.md R42). -/
abbrev ReqWord := BitVec 21

end Sys2Proof
end

