-- ==== Sys2Proof/Config.lean ====
section
/-!
DEFINITION. Config: the TYPE of what the build of the block fixes (00_scope.md R6, 10_state.md R28, 92_eei_decisions.md D10).
The VALUES this hardware takes, and the fixed masks of R7, stand each under its own name in Machine/Parameters.lean, where a
later repair may mend one literal in one line (93_implementation_defined.md U6).
No value of the block is left open for defined inputs (93, end of part 1), so there is no free value here.
-/

namespace Sys2Proof

/-- The four safety thresholds, "a lookup keyed by Motor" (R6): build-time, read-only, unsigned 16-bit each.
Functions that read them take the record as an argument, so a statement may quantify over every setting (U1). -/
structure Thresholds where
  /-- `PERIOD_MIN[A]` -/
  periodMinA : Magnitude
  /-- `PERIOD_MIN[B]` -/
  periodMinB : Magnitude
  /-- `HIGHTIME_MAX[A]` -/
  hightimeMaxA : Magnitude
  /-- `HIGHTIME_MAX[B]` -/
  hightimeMaxB : Magnitude
deriving DecidableEq, Repr

end Sys2Proof
end

