-- ==== Sys2Proof/Syntax.lean ====
section
/-!
DEFINITION. Syntax: the Intent (10_state.md R16 to R20, R26), the two request forms of spec/opcode_table.json (30_encoding.md
R47), and the Frame, the block's output value (R44).
-/

namespace Sys2Proof

/-- R16: "enumeration {A, B}". -/
inductive Motor where
  | A
  | B
deriving DecidableEq, Repr

/-- R17: "enumeration {Enabled, Disabled}". -/
inductive Enabled where
  | enabled
  | disabled
deriving DecidableEq, Repr

/-- R19: "enumeration {Forward, Backward}". -/
inductive Direction where
  | forward
  | backward
deriving DecidableEq, Repr

/-- R18: "enumeration {Hightime, Period}". -/
inductive Buffer where
  | hightime
  | period
deriving DecidableEq, Repr

/-- The Intent: "immutable aggregate of {Motor, Enabled, Direction, Buffer, magnitude: unsigned 16-bit}", in the document's
field order. Equality is structural (R26); the document gives no order and the block uses none (U7). -/
structure Intent where
  motor     : Motor
  enabled   : Enabled
  direction : Direction
  buffer    : Buffer
  magnitude : Magnitude
deriving DecidableEq, Repr

/-- The instructions: the two request forms over one Intent operand (R47), one constructor per row of the opcode table.
`ISSAFE` and `ENCODE` are pseudo-operations (R52) and stand in Machine/Written.lean. -/
inductive Instr where
  /-- `CRAFT.U`: craft a frame with safety not enforced (R69). -/
  | craftU (i : Intent)
  /-- `CRAFT.S`: craft a frame with safety enforced (R70). -/
  | craftS (i : Intent)
deriving DecidableEq, Repr

/-- A Frame: "exactly 3 unsigned 8-bit values" (R32, R44), always whole: no partial frame can be written down. -/
structure Frame where
  b0 : Byte
  b1 : Byte
  b2 : Byte
deriving DecidableEq, Repr

end Sys2Proof
end

