-- ==== Sys2Proof/Machine/Parameters.lean ====
section
/-!
DEFINITION. Parameters: every literal of the spec once, by name (93_implementation_defined.md U6), and the threshold lookup.
The literals are "unaudited against the repository's code" (R7) and normative as stated.
-/

namespace Sys2Proof.Machine

/-- R6: `PERIOD_MIN[A] = PERIOD_MIN[B] = 150` and `HIGHTIME_MAX[A] = HIGHTIME_MAX[B] = 50`. -/
def thresholds : Thresholds where
  periodMinA   := 150
  periodMinB   := 150
  hightimeMaxA := 50
  hightimeMaxB := 50

/-- R58: `PERIOD_MIN[motor]`. -/
def periodMin (t : Thresholds) : Motor → Magnitude
  | .A => t.periodMinA
  | .B => t.periodMinB

/-- R58: `HIGHTIME_MAX[motor]`. -/
def hightimeMax (t : Thresholds) : Motor → Magnitude
  | .A => t.hightimeMaxA
  | .B => t.hightimeMaxB

/-- R7: the mask of the control nibble, zero-extended to 8 bits as all five are. -/
def kC0 : Byte := 0x9

/-- R7: the mask of the high nibble of byte 1. -/
def kHi1 : Byte := 0x4

/-- R7: the mask of the low nibble of byte 1. -/
def kLo1 : Byte := 0xD

/-- R7: the mask of the high nibble of byte 2. -/
def kHi2 : Byte := 0x2

/-- R7: the mask of the low nibble of byte 2. -/
def kLo2 : Byte := 0xA

/-- R59: the magnitude of the stop sentinel. -/
def stopMagnitude : Magnitude := 0xFFFF

/-- R59: a stop command is an Intent with Buffer = Period and magnitude = 0xFFFF, whatever its other three fields. -/
def isStop (i : Intent) : Bool := i.buffer == .period && i.magnitude == stopMagnitude

end Sys2Proof.Machine
end

