-- ==== Sys2Proof/Machine/State.lean ====
section
/-!
DEFINITION. State: the block has NO state of its own (10_state.md R13: "A model's machine state is therefore the unit type;
everything a transaction needs arrives on its inputs"). What a step reads and what it shows is held here as plain data: the
seven input ports (R16 to R22), the five output ports (R23 to R25), and two fields of the model's own, which stand for the
environment and not for storage in the block: the vectors the command source has still to present, and the record of the
results so far, "the observable of a run" (92_eei_decisions.md D20; log 1).
The thresholds and masks are configuration (R28) and are no field here.
-/

namespace Sys2Proof.Machine

/-- The values on the input ports (R16 to R22), in the order of the port table. -/
structure Inputs where
  /-- R16: 0 = A, 1 = B -/
  motor         : Bit
  /-- R17: 1 = Enabled -/
  enabled       : Bit
  /-- R18: 1 = Hightime, 0 = Period -/
  buffer        : Bit
  /-- R19: 1 = Forward -/
  direction     : Bit
  /-- R20: unsigned -/
  magnitude     : Magnitude
  /-- R21: 1 = decline an unsafe Intent -/
  enforceSafety : Bit
  /-- R22: 1 = a transaction is presented -/
  reqValid      : Bit
deriving DecidableEq, Repr

/-- The values on the output ports (R23 to R25). -/
structure Outputs where
  /-- R23: 1 = safe -/
  safe       : Bit
  /-- R24: 1 = the frame ports carry a frame -/
  frameValid : Bit
  /-- R25 -/
  frameB0    : Byte
  frameB1    : Byte
  frameB2    : Byte
deriving DecidableEq, Repr

/-- The result of one transaction, "(Intent, `enforce_safety`) to (`safe`, optional Frame)" (D20): the `Option` is the
document's own `Option<Frame>`, `none` being the decline. -/
structure Result where
  safe  : Bool
  frame : Option Frame
deriving DecidableEq, Repr

/-- The machine's state: the ports, and the environment's two lists. -/
structure State where
  /-- the input ports; driven by the command source, never by the block (R26) -/
  inputs  : Inputs
  /-- the output ports -/
  outputs : Outputs
  /-- MODEL'S OWN (log 1): the input vectors the command source presents next, in order (R38) -/
  pending : List Inputs
  /-- MODEL'S OWN (log 1): the results of the transactions so far, oldest first -/
  results : List Result
deriving DecidableEq, Repr

/-- "fault: none exists; no input makes the block trap" (60_exceptions.md R79, R89): a type with no constructor. Nobody
raises one; this is neither safe nor unsafe but exact. -/
inductive Fault where
deriving DecidableEq, Repr

/-- "nothing is refused at the block's boundary" (R89): no meaning and no step ever refuses. -/
inductive Refusal where
  /-- Raised only by an arm of `exec` that has no meaning yet (there is none); safe. -/
  | notModelled (mnemonic : String)
deriving DecidableEq, Repr

/-- The command source "must hold `req_valid` = 0 from power-up" (R96). DESIGN CHOICE (log 2): the other input ports, to which
the spec gives no value, carry 0. -/
def Inputs.reset : Inputs where
  motor         := 0
  enabled       := 0
  buffer        := 0
  direction     := 0
  magnitude     := 0
  enforceSafety := 0
  reqValid      := 0

/-- R94: the outputs are, as always, the function of the inputs: no frame, ports 00 00 00, and `safe` = 0 because the Intent
ports carry Period and magnitude 0 (log 2). -/
def Outputs.reset : Outputs where
  safe       := 0
  frameValid := 0
  frameB0    := 0
  frameB1    := 0
  frameB2    := 0

/-- After reset nothing is presented and nothing has happened (R93 to R96). -/
def State.reset : State where
  inputs  := Inputs.reset
  outputs := Outputs.reset
  pending := []
  results := []

end Sys2Proof.Machine
end

