-- ==== Sys2Proof/Machine/Flags.lean ====
section
/-!
DEFINITION. Flags: the two one-bit result signals (10_state.md R27), neither of them stored by the block: the safety predicate
(40_safety_comparator.md) and the gate that says whether a frame is produced (R24, R71).
-/

namespace Sys2Proof.Machine

/-- R53, `is_safe(i)` over the Intent: the guard on `buffer` selects the one rule that applies (R56), Period a minimum (R54)
and Hightime a maximum (R55), against the threshold of the Intent's own motor (R58). -/
def isSafe (t : Thresholds) (i : Intent) : Bool :=
  match i.buffer with
  | .period   => (periodMin t i.motor).ule i.magnitude
  | .hightime => i.magnitude.ule (hightimeMax t i.motor)

/-- R70: the condition of a decline, `enforce_safety` true and the Intent unsafe. -/
def declines (t : Thresholds) (i : Intent) (enforce : Bool) : Bool := enforce && !isSafe t i

end Sys2Proof.Machine
end

