-- ==== Sys2Proof/WellFormed.lean ====
section
/-!
DEFINITION. WellFormed: which raw values are a request word or a frame, and that every instruction is well-formed.
The field types of `Instr` hold exactly the legal values, so no ill-formed instruction can be written down: "all five enum
fields and the magnitude are fully enumerable/bounded so no invalid-field state is representable" (R26, R50).
The checks that can fail are those on raw numbers and byte lists.
-/

namespace Sys2Proof

/-- R26, R50: every Intent is legal in both request forms, so there is nothing to refuse. -/
def Instr.wellFormed : Instr → Bool
  | .craftU _ => true
  | .craftS _ => true

/-- R42: a request word is a number 0x000000 to 0x1FFFFF. -/
def isRequestWord (w : Nat) : Bool := w ≤ 0x1FFFFF

/-- R32, R51: a frame is always exactly three bytes. -/
def isFrameLength (bs : List Byte) : Bool := bs.length == 3

end Sys2Proof
end

