-- ==== Sys2Proof/Decode.lean ====
section
/-!
DEFINITION. Decode: the value encodings of the one-bit fields (30_encoding.md R43), the decoder of the request word (R42, R47),
its byte form, and after it the encoder written from the same table.
All 2^21 request words are legal and each has exactly one meaning (R50): the decoder of a request WORD is total. Only bytes
that hold no request word are rejected, by name.
-/

namespace Sys2Proof

/-! ## The value encodings of R43 (the same on ports, in the request word and in the frame) -/

/-- "Motor A=0/B=1". -/
def Motor.toBit : Motor → Bit
  | .A => 0
  | .B => 1

def Motor.ofBit (b : Bit) : Motor := if b = 0 then .A else .B

/-- "Enabled=1/Disabled=0". -/
def Enabled.toBit : Enabled → Bit
  | .disabled => 0
  | .enabled  => 1

def Enabled.ofBit (b : Bit) : Enabled := if b = 0 then .disabled else .enabled

/-- "Buffer Hightime=1/Period=0". -/
def Buffer.toBit : Buffer → Bit
  | .period   => 0
  | .hightime => 1

def Buffer.ofBit (b : Bit) : Buffer := if b = 0 then .period else .hightime

/-- "Direction Forward=1/Backward=0". -/
def Direction.toBit : Direction → Bit
  | .backward => 0
  | .forward  => 1

def Direction.ofBit (b : Bit) : Direction := if b = 0 then .backward else .forward

/-! ## The request word -/

/-- The mask of both rows of the opcode map (R47): the opcode bit `REQ[20]`. -/
def opcodeMask : ReqWord := 0x100000

/-- R47: match of `CRAFT.U`. -/
def matchCraftU : ReqWord := 0x000000

/-- R47: match of `CRAFT.S`. -/
def matchCraftS : ReqWord := 0x100000

/-- The Intent operand `REQ[19:0]`, field by field (R42). -/
def intentOfRequest (w : ReqWord) : Intent where
  motor     := Motor.ofBit (w.extractLsb' 16 1)
  enabled   := Enabled.ofBit (w.extractLsb' 17 1)
  direction := Direction.ofBit (w.extractLsb' 19 1)
  buffer    := Buffer.ofBit (w.extractLsb' 18 1)
  magnitude := w.extractLsb' 0 16

/-- The decoder of a request word, "mask 0x100000, match 0x000000 for CRAFT.U, match 0x100000 for CRAFT.S" (R47). -/
def decodeRequest (w : ReqWord) : Instr :=
  if w &&& opcodeMask = matchCraftU then .craftU (intentOfRequest w) else .craftS (intentOfRequest w)

/-! ## The byte form of a request word (log 5) -/

/-- Why bytes hold no request word. -/
inductive DecodeError where
  /-- fewer than the three bytes that carry 21 bits -/
  | truncated
  /-- a bit above `REQ[20]` is set: no such bit exists (R42, R51) -/
  | notARequestWord
deriving DecidableEq, Repr

/-- DESIGN CHOICE (log 5): three bytes, least significant first, as spec/opcode_table.json's bits are numbered. -/
def wordOfBytes (a b c : Byte) : Nat := a.toNat + 256 * b.toNat + 65536 * c.toNat

/-- Decoding bytes: total on every byte list, and it gives back what follows the word. -/
def decodeBytes : List Byte → Except DecodeError (Instr × List Byte)
  | a :: b :: c :: rest =>
    if isRequestWord (wordOfBytes a b c) then .ok (decodeRequest (BitVec.ofNat 21 (wordOfBytes a b c)), rest)
    else .error .notARequestWord
  | _ => .error .truncated

/-! ## The encoder -/

/-- The opcode bit `s` of each form (R47). -/
def Instr.opcodeBit : Instr → Bit
  | .craftU _ => 0
  | .craftS _ => 1

def Instr.intent : Instr → Intent
  | .craftU i => i
  | .craftS i => i

/-- The request word of an instruction: `{s, d, b, e, m, v}` (R42). -/
def encode (x : Instr) : ReqWord :=
  x.opcodeBit ++ x.intent.direction.toBit ++ x.intent.buffer.toBit ++ x.intent.enabled.toBit ++ x.intent.motor.toBit
    ++ x.intent.magnitude

/-- The three bytes of a request word, least significant first (log 5). -/
def layoutBytes (w : Nat) : List Byte := [BitVec.ofNat 8 w, BitVec.ofNat 8 (w / 256), BitVec.ofNat 8 (w / 65536)]

def encodeBytes (x : Instr) : List Byte := layoutBytes (encode x).toNat

/-- The instruction the decoder reads from a word numbered as spec/opcode_table.json numbers it: the word is laid out as
bytes and given to `decodeBytes`. A word that needs more than three bytes is no request word. -/
def decodeTableWord (nbits w : Nat) : Option Instr :=
  if w % 2 ^ nbits < 2 ^ 24 then
    match decodeBytes (layoutBytes (w % 2 ^ nbits)) with
    | .ok (x, _) => some x
    | .error _   => none
  else none

end Sys2Proof
end

