-- ==== Sys2Proof/Machine/Operands.lean ====
section
/-!
DEFINITION. Operands: the assembly of the checksum's operands from an Intent (30_encoding.md R48; 41_frame_encoder.md R61 to
R63), each nibble zero-extended to 8 bits. Nothing is sign-extended or scaled.
-/

namespace Sys2Proof.Machine

/-- A nibble or bit of a value as an 8-bit operand (R48). -/
def zext8 {n : Nat} (v : BitVec n) : Byte := v.setWidth 8

/-- R61: "These four bits are summed": `c0 = motor + 2*enabled + 4*buffer + 8*direction`. -/
def controlNibble (i : Intent) : Byte :=
  zext8 i.motor.toBit + 2 * zext8 i.enabled.toBit + 4 * zext8 i.buffer.toBit + 8 * zext8 i.direction.toBit

/-- R62: byte 1 is `magnitude[15:8]`. -/
def highByte (v : Magnitude) : Byte := v.extractLsb' 8 8

/-- R62: byte 2 is `magnitude[7:0]`. -/
def lowByte (v : Magnitude) : Byte := v.extractLsb' 0 8

/-- R9: the high nibble of a byte is bits 7:4. -/
def highNibble (b : Byte) : Nibble := b.extractLsb' 4 4

/-- R9: the low nibble of a byte is bits 3:0. -/
def lowNibble (b : Byte) : Nibble := b.extractLsb' 0 4

end Sys2Proof.Machine
end

