-- ==== Sys2Proof/Machine/Ops.lean ====
section
/-!
DEFINITION. Ops: the frame encoder (41_frame_encoder.md R64 to R68), `craft_message` over the Intent (R69, R70), and the one
shared operation by which a request form shows its result.

There is NO operation here that takes an exception or returns from one, and none over memory or registers, because the spec
says the block has none: "The block raises no synchronous exception, on any input, in any operation" (R79), "There is no trap
entry" (R85), "There is no trap-return operation" (R86), no memory (R31), no registers (R14). The decline is a completed step.
-/

namespace Sys2Proof.Machine

/-- R64, R65: `count`, the five masked nibbles under 8-bit wrapping addition, as a function of the control nibble and the two
payload bytes. -/
def count (c0 b1 b2 : Byte) : Byte :=
  (c0 ^^^ kC0) + (zext8 (highNibble b1) ^^^ kHi1) + (zext8 (lowNibble b1) ^^^ kLo1)
    + (zext8 (highNibble b2) ^^^ kHi2) + (zext8 (lowNibble b2) ^^^ kLo2)

/-- R66: the checksum nibble, `count & 0xF`. -/
def chk (c0 b1 b2 : Byte) : Nibble := lowNibble (count c0 b1 b2 &&& 0xF)

/-- R67: byte 0, "low-nibble-control-bits + (checksum-nibble << 4)". -/
def controlByte (c0 : Byte) (k : Nibble) : Byte := c0 + (zext8 k <<< 4)

/-- R67, R68: the whole frame from the control nibble and the payload bytes. -/
def assemble (c0 b1 b2 : Byte) : Frame := ⟨controlByte c0 (chk c0 b1 b2), b1, b2⟩

/-- R68, `encode(i)`: total, the magnitude copied unchanged whether or not the Intent is safe (R62). -/
def encodeFrame (i : Intent) : Frame := assemble (controlNibble i) (highByte i.magnitude) (lowByte i.magnitude)

/-- `craft_message(i, enforce)` (R69, R70): nothing when it declines, "Otherwise" the encoded frame. -/
def craftMessage (t : Thresholds) (i : Intent) (enforce : Bool) : Option Frame :=
  if declines t i enforce then none else some (encodeFrame i)

/-- The output ports for a presented request on `i` whose result is `r` (R23 to R25, R71): `safe` is driven in every case,
and the frame ports show 00 00 00 when no frame is produced. -/
def outputsOf (t : Thresholds) (i : Intent) (r : Option Frame) : Outputs where
  safe       := BitVec.ofBool (isSafe t i)
  frameValid := BitVec.ofBool r.isSome
  frameB0    := (r.map Frame.b0).getD 0
  frameB1    := (r.map Frame.b1).getD 0
  frameB2    := (r.map Frame.b2).getD 0

/-- The one effect of a request form (R71): its result stands on the output ports and is the next result of the run (D20).
The input ports and what the command source will present are untouched: "the block drives no input port" (R26). -/
def deliver (t : Thresholds) (i : Intent) (r : Option Frame) (s : State) : State :=
  { s with
    outputs := outputsOf t i r
    results := s.results ++ [⟨isSafe t i, r⟩] }

/-- The outcomes of a presented request: "`Frame(f)` and `Declined`; there is no third" (R82). -/
inductive RequestOutcome where
  | frame (f : Frame)
  | declined
deriving DecidableEq, Repr

def Result.outcome (r : Result) : RequestOutcome :=
  match r.frame with
  | some f => .frame f
  | none   => .declined

end Sys2Proof.Machine
end

