-- ==== Sys2Proof/Machine/Craft.lean ====
section
/-!
DEFINITION. Craft: the meanings of the two request forms (41_frame_encoder.md R69, R70), over this hardware's thresholds.
-/

namespace Sys2Proof.Machine

/-- `CRAFT.U` (R69): `craft_message(i, false)`; it never declines. -/
def execCraftU (i : Intent) (s : State) : Host.Outcome State Fault Refusal :=
  .next (deliver thresholds i (craftMessage thresholds i false) s)

/-- `CRAFT.S` (R70): `craft_message(i, true)`; the `None` result is a decline, a completed step and no error (R80). -/
def execCraftS (i : Intent) (s : State) : Host.Outcome State Fault Refusal :=
  .next (deliver thresholds i (craftMessage thresholds i true) s)

end Sys2Proof.Machine
end

