-- ==== Sys2Proof/Machine/Dispatch.lean ====
section
/-! DEFINITION. Dispatch: one arm per request form (30_encoding.md R47). -/

namespace Sys2Proof.Machine

def exec (i : Instr) (s : State) : Host.Outcome State Fault Refusal :=
  match i with
  | .craftU x => Sys2Proof.Machine.execCraftU x s
  | .craftS x => Sys2Proof.Machine.execCraftS x s

end Sys2Proof.Machine
end

