-- ==== Sys2Proof/Machine/Ports.lean ====
section
/-!
DEFINITION. Ports: the block as its port list shows it (10_state.md section 2), written from the port-level pseudocode of R53,
R68 and R71 over the port BITS, apart from the functions over the abstract Intent in Flags and Ops: "The two always agree"
(00_scope.md R12) is then a statement. Beside it, how the command source puts a request on the ports (R42, R96).
-/

namespace Sys2Proof.Machine

/-! ## The combinational block -/

/-- R28: `PERIOD_MIN` indexed by the port `motor`. -/
def periodMinAt (t : Thresholds) (motor : Bit) : Magnitude := if motor = 0 then t.periodMinA else t.periodMinB

/-- R28: `HIGHTIME_MAX` indexed by the port `motor`. -/
def hightimeMaxAt (t : Thresholds) (motor : Bit) : Magnitude := if motor = 0 then t.hightimeMaxA else t.hightimeMaxB

/-- R53, the `out.safe` line: `motor`, `buffer` and `magnitude` only (R57). -/
def safePort (t : Thresholds) (v : Inputs) : Bit :=
  if v.buffer = 0 then BitVec.ofBool ((periodMinAt t v.motor).ule v.magnitude)
  else BitVec.ofBool (v.magnitude.ule (hightimeMaxAt t v.motor))

/-- R68: `c0 = zext_8({direction, buffer, enabled, motor})`, the four ports side by side. -/
def controlPorts (v : Inputs) : Byte := zext8 (v.direction ++ v.buffer ++ v.enabled ++ v.motor)

/-- R68 over the ports: the frame computed in parallel with the check (R70), before the gate. -/
def framePorts (v : Inputs) : Frame := assemble (controlPorts v) (highByte v.magnitude) (lowByte v.magnitude)

/-- R71: `frame_valid = req_valid & (~enforce_safety | safe)`. -/
def frameValidPort (t : Thresholds) (v : Inputs) : Bit := v.reqValid &&& (~~~ v.enforceSafety ||| safePort t v)

/-- R71: one frame port, driven to 0x00 when `frame_valid` = 0. -/
def gatePort (frameValid : Bit) (b : Byte) : Byte := if frameValid = 1 then b else 0x00

/-- R71: the block, one stateless function from input ports to output ports (R13, D1). -/
def evalPorts (t : Thresholds) (v : Inputs) : Outputs where
  safe       := safePort t v
  frameValid := frameValidPort t v
  frameB0    := gatePort (frameValidPort t v) (framePorts v).b0
  frameB1    := gatePort (frameValidPort t v) (framePorts v).b1
  frameB2    := gatePort (frameValidPort t v) (framePorts v).b2

/-- R71: a decline is `req_valid & enforce_safety & ~safe`. -/
def declinePort (t : Thresholds) (v : Inputs) : Bit := v.reqValid &&& v.enforceSafety &&& ~~~ safePort t v

/-! ## Requests on the ports -/

/-- R42: the request word packed from the ports; `req_valid` is no part of it. -/
def requestOf (v : Inputs) : ReqWord :=
  v.enforceSafety ++ v.direction ++ v.buffer ++ v.enabled ++ v.motor ++ v.magnitude

/-- The Intent the ports carry (R71, first line). -/
def intentOf (v : Inputs) : Intent where
  motor     := Motor.ofBit v.motor
  enabled   := Enabled.ofBit v.enabled
  direction := Direction.ofBit v.direction
  buffer    := Buffer.ofBit v.buffer
  magnitude := v.magnitude

/-- The ports driven with a request word and a strobe, field by field (R42). -/
def driveWord (w : ReqWord) (reqValid : Bit) : Inputs where
  motor         := w.extractLsb' 16 1
  enabled       := w.extractLsb' 17 1
  buffer        := w.extractLsb' 18 1
  direction     := w.extractLsb' 19 1
  magnitude     := w.extractLsb' 0 16
  enforceSafety := w.extractLsb' 20 1
  reqValid      := reqValid

/-- R96 (3): the command source presents an instruction: one coherent set of values with `req_valid` raised. -/
def presentation (x : Instr) : Inputs := driveWord (encode x) 1

/-- The vector that stands for a word of the opcode table: a request when the word is one, else no request at all, since "a
request word exists only when `req_valid` = 1" (R42; log 6). -/
def presentTableWord (nbits w : Nat) : Inputs :=
  driveWord (BitVec.ofNat 21 (w % 2 ^ nbits)) (BitVec.ofBool (isRequestWord (w % 2 ^ nbits)))

/-! ## What a step does around an instruction -/

/-- The environment's move: the command source puts its next vector on the input ports; with nothing left to present it goes
on holding what is there (R102: a request held is still one transaction; log 3). -/
def advance (s : State) : State :=
  match s.pending with
  | []        => s
  | v :: rest => { s with inputs := v, pending := rest }

/-- The request the command source presents at this step, if it presents one (R22, R40). -/
def fetch (s : State) : Option Instr :=
  match s.pending with
  | []     => none
  | v :: _ => if v.reqValid = 1 then some (decodeRequest (requestOf v)) else none

/-- With no new request the outputs still follow the inputs (R13, R23, R94), and no transaction takes place. -/
def settle (t : Thresholds) (s : State) : State := { s with outputs := evalPorts t s.inputs }

end Sys2Proof.Machine
end

