-- ==== Sys2Proof/Machine/Step.lean ====
section
/-!
DEFINITION. Step: one step is one presentation by the command source (00_scope.md R5, 92_eei_decisions.md D20): it drives the
input ports, and the block's outputs follow. There is no program counter and no stored program (R15, R40).
-/

namespace Sys2Proof.Machine

/-- The command source drives its next vector; a presented request is one transaction, and without one the outputs only follow
the inputs. -/
def step (s : State) : Host.Outcome State Fault Refusal :=
  match fetch s with
  | some x => exec x (advance s)
  | none   => .next (settle thresholds (advance s))

/-- The word of an instruction stored where the next step takes it from: first among the vectors the command source presents
(log 6). -/
def State.withFetchWord (s : State) (nbits w : Nat) : State := { s with pending := presentTableWord nbits w :: s.pending }

end Sys2Proof.Machine
end

