-- ==== Sys2Proof/Machine/Written.lean ====
section
/-!
DEFINITION. Written: the one-line written syntax of a request and its two pseudo-operations (30_encoding.md R52,
92_eei_decisions.md D16), as text over characters. "There is no toolchain, no assembler and no binary program format for the
block in any source": this is R52's notation and nothing more; no step reads it. Log 7 names what R52 leaves open of it.
-/

namespace Sys2Proof.Machine

/-- The mnemonics of R52: the two forms and the two pseudo-operations. -/
inductive Mnemonic where
  | craftU
  | craftS
  | isSafe
  | encode
deriving DecidableEq, Repr

/-- One written line: a mnemonic and the operands, which are one Intent. -/
structure Line where
  mnemonic : Mnemonic
  operands : Intent
deriving DecidableEq, Repr

/-- What a line presents on the ports (R52): `ENCODE` is another name for `CRAFT.U`, and `ISSAFE` is the Intent ports driven
with `req_valid` = 0, one of the expansions R52 allows (log 7). -/
def expand (l : Line) : Inputs :=
  match l.mnemonic with
  | .craftU => presentation (.craftU l.operands)
  | .craftS => presentation (.craftS l.operands)
  | .encode => presentation (.craftU l.operands)
  | .isSafe => driveWord (Sys2Proof.encode (.craftU l.operands)) 0

/-! ## Reading -/

def readMnemonic : List Char → Option Mnemonic
  | ['C', 'R', 'A', 'F', 'T', '.', 'U'] => some .craftU
  | ['C', 'R', 'A', 'F', 'T', '.', 'S'] => some .craftS
  | ['I', 'S', 'S', 'A', 'F', 'E']      => some .isSafe
  | ['E', 'N', 'C', 'O', 'D', 'E']      => some .encode
  | _ => none

def readMotor : List Char → Option Motor
  | ['A'] => some .A
  | ['B'] => some .B
  | _ => none

def readEnabled : List Char → Option Enabled
  | ['E', 'N']      => some .enabled
  | ['D', 'I', 'S'] => some .disabled
  | _ => none

def readDirection : List Char → Option Direction
  | ['F', 'W', 'D'] => some .forward
  | ['B', 'W', 'D'] => some .backward
  | _ => none

def readBuffer : List Char → Option Buffer
  | ['P', 'E', 'R'] => some .period
  | ['H', 'T']      => some .hightime
  | _ => none

/-- The digits of both numerals, in order of value. -/
def digits : List Char := ['0', '1', '2', '3', '4', '5', '6', '7', '8', '9', 'A', 'B', 'C', 'D', 'E', 'F']

/-- The value of a digit in a base of at most 16. -/
def digitValue (base : Nat) (c : Char) : Option Nat :=
  if digits.idxOf c < base then some (digits.idxOf c) else none

/-- The value of digits read most significant first, after the value already read. -/
def readDigits (base acc : Nat) : List Char → Option Nat
  | []      => some acc
  | c :: cs =>
    match digitValue base c with
    | some d => readDigits base (base * acc + d) cs
    | none   => none

/-- R52: "a decimal numeral 0 to 65535 or a hexadecimal numeral 0x0000 to 0xFFFF". -/
def readMagnitude : List Char → Option Magnitude
  | ['0', 'x', a, b, c, d] => (readDigits 16 0 [a, b, c, d]).map (BitVec.ofNat 16)
  | []      => none
  | c :: cs =>
    match readDigits 10 0 (c :: cs) with
    | some n => if n ≤ 65535 then some (BitVec.ofNat 16 n) else none
    | none   => none

/-- The text before the first `stop` character and the text after it. -/
def splitFirst (stop : Char) : List Char → List Char × List Char
  | []      => ([], [])
  | c :: cs => if c = stop then ([], cs) else ((c :: (splitFirst stop cs).1), (splitFirst stop cs).2)

/-- An operand that ends in a comma and a space, and the text after it. -/
def splitOperand (cs : List Char) : Option (List Char × List Char) :=
  match splitFirst ',' cs with
  | (w, ' ' :: rest) => some (w, rest)
  | _ => none

/-- R52: `<mnemonic> <motor>, <enabled>, <direction>, <buffer>, <magnitude>`. -/
def readLine (text : List Char) : Option Line := do
  let (mn, r0) := splitFirst ' ' text
  let (m, r1) ← splitOperand r0
  let (e, r2) ← splitOperand r1
  let (d, r3) ← splitOperand r2
  let (b, v)  ← splitOperand r3
  return ⟨← readMnemonic mn, ⟨← readMotor m, ← readEnabled e, ← readDirection d, ← readBuffer b, ← readMagnitude v⟩⟩

/-! ## Writing -/

def Mnemonic.write : Mnemonic → List Char
  | .craftU => ['C', 'R', 'A', 'F', 'T', '.', 'U']
  | .craftS => ['C', 'R', 'A', 'F', 'T', '.', 'S']
  | .isSafe => ['I', 'S', 'S', 'A', 'F', 'E']
  | .encode => ['E', 'N', 'C', 'O', 'D', 'E']

def writeMotor : Motor → List Char
  | .A => ['A']
  | .B => ['B']

def writeEnabled : Enabled → List Char
  | .enabled  => ['E', 'N']
  | .disabled => ['D', 'I', 'S']

def writeDirection : Direction → List Char
  | .forward  => ['F', 'W', 'D']
  | .backward => ['B', 'W', 'D']

def writeBuffer : Buffer → List Char
  | .period   => ['P', 'E', 'R']
  | .hightime => ['H', 'T']

def writeDigit (n : Nat) : Char := digits.getD n '0'

/-- The hexadecimal numeral of four digits (log 7). -/
def writeMagnitude (v : Magnitude) : List Char :=
  ['0', 'x', writeDigit (v.toNat / 4096), writeDigit (v.toNat / 256 % 16), writeDigit (v.toNat / 16 % 16),
    writeDigit (v.toNat % 16)]

def writeLine (l : Line) : List Char :=
  l.mnemonic.write ++ ' ' :: (writeMotor l.operands.motor ++ ',' :: ' ' :: (writeEnabled l.operands.enabled
    ++ ',' :: ' ' :: (writeDirection l.operands.direction ++ ',' :: ' ' :: (writeBuffer l.operands.buffer
    ++ ',' :: ' ' :: writeMagnitude l.operands.magnitude))))

/-- A program is a finite sequence of requests (95_test_vectors.md part 3; D20): it is what the command source presents from
a given state. -/
def load (program : List Line) (s : State) : State := { s with pending := program.map expand }

end Sys2Proof.Machine
end

