-- ==== Sys2Proof/Machine/FrameFormat.lean ====
section
/-!
DEFINITION. FrameFormat: the frame as a value (30_encoding.md R44, R49, R51; 41_frame_encoder.md R76) and the byte stream a run
hands to the transport (20_memory.md R41, 92_eei_decisions.md D20).
The block contains no decoder and checks no frame: `validFrame`, `readBack` and `cutFrames` are "given for the model's laws and
tests only" (R49, R76), and no step reads them.
-/

namespace Sys2Proof.Machine

/-- R44: `FRAME24 = {byte 0, byte 1, byte 2}`. -/
def frame24 (f : Frame) : BitVec 24 := f.b0 ++ f.b1 ++ f.b2

/-- The 3-byte value a `FRAME24` number stands for. -/
def frameOf24 (w : BitVec 24) : Frame := ⟨w.extractLsb' 16 8, w.extractLsb' 8 8, w.extractLsb' 0 8⟩

/-- R49: a 3-byte value is a valid frame exactly when the high nibble of byte 0 is the checksum of the rest. -/
def validFrame (f : Frame) : Bool := highNibble f.b0 == chk (zext8 (lowNibble f.b0)) f.b1 f.b2

/-- R76: the Intent read back from a frame. -/
def readBack (f : Frame) : Intent where
  motor     := Motor.ofBit (f.b0.extractLsb' 0 1)
  enabled   := Enabled.ofBit (f.b0.extractLsb' 1 1)
  direction := Direction.ofBit (f.b0.extractLsb' 3 1)
  buffer    := Buffer.ofBit (f.b0.extractLsb' 2 1)
  magnitude := f.b1 ++ f.b2

/-- R41: the frame as the byte sequence byte 0, byte 1, byte 2. -/
def frameBytes (f : Frame) : List Byte := [f.b0, f.b1, f.b2]

/-- A result's bytes: "on success produces 3 bytes; on rejection produces no bytes" (R35). -/
def resultBytes (r : Result) : List Byte :=
  match r.frame with
  | some f => frameBytes f
  | none   => []

/-- D20: the byte stream of a run, the produced frames concatenated in order. It says nothing of whether the transport sent
them. -/
def byteStream (rs : List Result) : List Byte := rs.flatMap resultBytes

/-- R51: "a consumer of the byte stream can cut it into frames only by counting three bytes from a known start". -/
def cutFrames : List Byte → List Frame
  | a :: b :: c :: rest => ⟨a, b, c⟩ :: cutFrames rest
  | _ => []

end Sys2Proof.Machine
end

