-- ==== Sys2Proof/Safety.lean ====
section
/-!
DEFINITION. Safety: the words the statements use for good states and good runs.
-/

namespace Sys2Proof.Machine

/-- R13: "Every output is at all times a function of the present values of the inputs" and of the build-time parameters. -/
def Settled (t : Thresholds) (s : State) : Prop := s.outputs = evalPorts t s.inputs

/-- A result that some request has (R49, R70, R80): a produced frame is valid and its verdict is that of the Intent it
encodes; a decline only of an unsafe Intent. -/
def Result.Sound (t : Thresholds) (r : Result) : Prop :=
  match r.frame with
  | some f => validFrame f = true ∧ r.safe = isSafe t (readBack f)
  | none   => r.safe = false

/-- What every step keeps: the outputs follow the inputs and the record holds only sound results. -/
def Inv (t : Thresholds) (s : State) : Prop := Settled t s ∧ ∀ r ∈ s.results, r.Sound t

/-- R100: the command source drives `enforce_safety` = 1 on every request it still has to present. -/
def Enforced (s : State) : Prop := ∀ v ∈ s.pending, v.reqValid = 1 → v.enforceSafety = 1

/-- Every frame handed over encodes a safe Intent: what "rejects intents that would command unsafe motor parameters" means
for the block (R87). -/
def OnlySafeFrames (t : Thresholds) (rs : List Result) : Prop :=
  ∀ r ∈ rs, ∀ f, r.frame = some f → isSafe t (readBack f) = true

/-- The result of one input vector on its own, `none` where it presents no request (R38). -/
def resultOf (t : Thresholds) (v : Inputs) : Option Result :=
  if v.reqValid = 1 then some ⟨isSafe t (intentOf v), craftMessage t (intentOf v) (v.enforceSafety == 1)⟩ else none

end Sys2Proof.Machine
end

