-- ==== Sys2Proof/Certificates/Slice0/Obligations.lean ====
section
/-!
DEFINITION. Obligations: the statements for the provers. Each docstring names the rule of the spec it formalises, or says that
it is derived and from what. Where a statement takes a `Thresholds` record it holds for every setting of the build
(93_implementation_defined.md U1); statements about `exec` and `step` are about this hardware's values.
-/

open Sys2Proof Sys2Proof.Machine

/-! ## The request word (30_encoding.md) -/

/-- Derived from R42 and R47, with the byte form of log 5: every instruction is read back from its word, from its bytes with
whatever follows them, and from its table number. -/
def Obligations.DecodeOfEncodeIsTheInstruction : Prop :=
  ∀ x : Instr, x.wellFormed = true ∧ decodeRequest (encode x) = x ∧
    (∀ rest, decodeBytes (encodeBytes x ++ rest) = .ok (x, rest)) ∧ decodeTableWord 24 (encode x).toNat = some x

/-- Derived from R50, "All 2^21 request words are legal and each has exactly one meaning": the other direction, and that no
two words mean the same instruction. -/
def Obligations.EveryRequestWordHasOneMeaning : Prop :=
  ∀ w : ReqWord, encode (decodeRequest w) = w ∧ ∀ x : Instr, decodeRequest w = x ↔ w = encode x

/-- R47: the opcode bit alone selects the form, as its mask and the two matches say, and `REQ[19:0]` is the Intent operand
in both; and both forms drive `safe`. -/
def Obligations.OpcodeBitSelectsTheForm : Prop :=
  ∀ w : ReqWord,
    (decodeRequest w = .craftU (intentOfRequest w) ↔ w.getLsbD 20 = false) ∧
    (decodeRequest w = .craftS (intentOfRequest w) ↔ w.getLsbD 20 = true) ∧
    (w.getLsbD 20 = false ↔ w &&& 0x100000 = 0x000000) ∧ (w.getLsbD 20 = true ↔ w &&& 0x100000 = 0x100000) ∧
    (∀ w' : ReqWord, (∀ k < 20, w'.getLsbD k = w.getLsbD k) → intentOfRequest w' = intentOfRequest w) ∧
    ∀ s, ∃ s', exec (decodeRequest w) s = .next s' ∧
      s'.outputs.safe = BitVec.ofBool (isSafe thresholds (intentOfRequest w))

/-- R43: each one-bit field has the value the rule gives it, at its bit of the frame's byte 0, on its input port and at its
bit of the request word. -/
def Obligations.OneBitFieldEncodings : Prop :=
  ∀ x : Instr,
    (∀ b, b = decide (x.intent.motor = .B) → (encodeFrame x.intent).b0.getLsbD 0 = b ∧
      (presentation x).motor = BitVec.ofBool b ∧ (encode x).getLsbD 16 = b) ∧
    (∀ b, b = decide (x.intent.enabled = .enabled) → (encodeFrame x.intent).b0.getLsbD 1 = b ∧
      (presentation x).enabled = BitVec.ofBool b ∧ (encode x).getLsbD 17 = b) ∧
    (∀ b, b = decide (x.intent.buffer = .hightime) → (encodeFrame x.intent).b0.getLsbD 2 = b ∧
      (presentation x).buffer = BitVec.ofBool b ∧ (encode x).getLsbD 18 = b) ∧
    (∀ b, b = decide (x.intent.direction = .forward) → (encodeFrame x.intent).b0.getLsbD 3 = b ∧
      (presentation x).direction = BitVec.ofBool b ∧ (encode x).getLsbD 19 = b)

/-- The model's choice (log 5), resting on R42 and R51: which byte lists hold no request word, each rejected under its name;
every other list decodes. -/
def Obligations.DecoderRejectsByName : Prop :=
  (∀ bs : List Byte, decodeBytes bs = .error .truncated ↔ bs.length < 3) ∧
  (∀ a b c : Byte, ∀ rest, decodeBytes (a :: b :: c :: rest) = .error .notARequestWord ↔ 32 ≤ c.toNat) ∧
  (∀ a b c : Byte, ∀ rest, c.toNat < 32 → ∃ x, decodeBytes (a :: b :: c :: rest) = .ok (x, rest) ∧
    (encode x).toNat = a.toNat + 256 * b.toNat + 65536 * c.toNat)

/-- Sanity: four words of 95_test_vectors.md 2.4, among them the example of R52. The last clause is the model's choice (log 5):
a bit above the 21 of R42 is set, so the number is no request word and is rejected. -/
def Obligations.WordsOfTheSpecDecode : Prop :=
  decodeTableWord 24 0x1A00C8 = some (.craftS ⟨.A, .enabled, .forward, .period, 200⟩) ∧
  decodeTableWord 24 0x0E003C = some (.craftU ⟨.A, .enabled, .forward, .hightime, 60⟩) ∧
  decodeTableWord 24 0x19FFFF = some (.craftS ⟨.B, .disabled, .forward, .period, 0xFFFF⟩) ∧
  decodeTableWord 24 0x150000 = some (.craftS ⟨.B, .disabled, .backward, .hightime, 0⟩) ∧
  decodeTableWord 24 0x200000 = none

/-! ## The frame (41_frame_encoder.md) -/

/-- R61: the control nibble is the four control bits at their positions, as a concatenation, as a sum and as a bitwise OR,
and as an 8-bit value it is at most 0x0F. -/
def Obligations.ControlNibbleIsTheFourBits : Prop :=
  ∀ i : Intent,
    controlNibble i = zext8 (i.direction.toBit ++ i.buffer.toBit ++ i.enabled.toBit ++ i.motor.toBit) ∧
    (controlNibble i).toNat =
      i.motor.toBit.toNat + 2 * i.enabled.toBit.toNat + 4 * i.buffer.toBit.toNat + 8 * i.direction.toBit.toNat ∧
    controlNibble i = (zext8 i.motor.toBit ||| zext8 i.enabled.toBit <<< 1 ||| zext8 i.buffer.toBit <<< 2 |||
      zext8 i.direction.toBit <<< 3) ∧
    controlNibble i ≤ 0x0F ∧
    controlNibble ⟨.A, .enabled, .forward, .period, i.magnitude⟩ = 0x0A

/-- R62 and R46: bytes 1 and 2 are the magnitude, high byte first, bit for bit, whatever the other fields are. -/
def Obligations.PayloadIsTheMagnitudeUnchanged : Prop :=
  ∀ i : Intent,
    (∀ k < 8, (encodeFrame i).b1.getLsbD k = i.magnitude.getLsbD (8 + k) ∧
      (encodeFrame i).b2.getLsbD k = i.magnitude.getLsbD k) ∧
    (encodeFrame i).b1 ++ (encodeFrame i).b2 = i.magnitude ∧
    (i.magnitude = 200 → (encodeFrame i).b1 = 0x00 ∧ (encodeFrame i).b2 = 0xC8)

/-- R63: the four payload nibbles, from the bytes and from the magnitude, each at most 15 as an 8-bit operand. -/
def Obligations.PayloadNibbles : Prop :=
  ∀ v : Magnitude,
    highNibble (highByte v) = v.extractLsb' 12 4 ∧ lowNibble (highByte v) = v.extractLsb' 8 4 ∧
    highNibble (lowByte v) = v.extractLsb' 4 4 ∧ lowNibble (lowByte v) = v.extractLsb' 0 4 ∧
    (∀ b : Byte, highNibble b ++ lowNibble b = b ∧ (zext8 (highNibble b)).toNat = b.toNat / 16 ∧
      (zext8 (lowNibble b)).toNat = b.toNat % 16) ∧
    (∀ n : Nibble, (zext8 n).toNat = n.toNat ∧ (zext8 n).toNat ≤ 15) ∧
    highNibble (highByte 0x00C8) = 0x0 ∧ lowNibble (highByte 0x00C8) = 0x0 ∧
    highNibble (lowByte 0x00C8) = 0xC ∧ lowNibble (lowByte 0x00C8) = 0x8

/-- R64 and R65: `count` is the 8-bit wrapping sum, taken in any order, of the five nibbles XORed with 9, 4, D, 2, A in that
pairing, each term at most 15. -/
def Obligations.CountSumsTheFiveMaskedNibbles : Prop :=
  ∀ i : Intent, ∀ t0 t1 t2 t3 t4 : Byte,
    t0 = controlNibble i ^^^ 0x09 → t1 = zext8 (highNibble (highByte i.magnitude)) ^^^ 0x04 →
    t2 = zext8 (lowNibble (highByte i.magnitude)) ^^^ 0x0D → t3 = zext8 (highNibble (lowByte i.magnitude)) ^^^ 0x02 →
    t4 = zext8 (lowNibble (lowByte i.magnitude)) ^^^ 0x0A →
    (t0 ≤ 15 ∧ t1 ≤ 15 ∧ t2 ≤ 15 ∧ t3 ≤ 15 ∧ t4 ≤ 15) ∧
    (count (controlNibble i) (highByte i.magnitude) (lowByte i.magnitude)).toNat =
      (t0.toNat + t1.toNat + t2.toNat + t3.toNat + t4.toNat) % 256 ∧
    (∀ ts : List Byte, ts.Perm [t0, t1, t2, t3, t4] →
      ts.foldl (· + ·) 0 = count (controlNibble i) (highByte i.magnitude) (lowByte i.magnitude)) ∧
    (i = ⟨.A, .enabled, .forward, .period, 200⟩ → [t0, t1, t2, t3, t4] = [3, 4, 13, 14, 2] ∧
      count (controlNibble i) (highByte i.magnitude) (lowByte i.magnitude) = 36)

/-- R66: the checksum nibble is the low nibble of `count`, as `count & 0xF`, as `count[3:0]` and as a number, and its
formula over the frame's other content. -/
def Obligations.ChecksumIsTheLowNibbleOfCount : Prop :=
  ∀ c0 b1 b2 : Byte,
    zext8 (chk c0 b1 b2) = count c0 b1 b2 &&& 0xF ∧ chk c0 b1 b2 = (count c0 b1 b2).extractLsb' 0 4 ∧
    (chk c0 b1 b2).toNat = (count c0 b1 b2).toNat % 16 ∧ (chk c0 b1 b2).toNat ≤ 15 ∧
    chk c0 b1 b2 = ((c0 ^^^ 0x9) + (zext8 (b1.extractLsb' 4 4) ^^^ 0x4) + (zext8 (b1.extractLsb' 0 4) ^^^ 0xD) +
      (zext8 (b2.extractLsb' 4 4) ^^^ 0x2) + (zext8 (b2.extractLsb' 0 4) ^^^ 0xA)).extractLsb' 0 4 ∧
    (count c0 b1 b2 = 0x24 → chk c0 b1 b2 = 4)

/-- Byte 0 as the wrapping sum of the control nibble and the shifted checksum nibble, R67's own form, and, derived by the spec
from R61 and R66 (R67, C8), that the sum does not carry and equals their OR and their concatenation. -/
def Obligations.ControlByteIsChecksumAboveControl : Prop :=
  ∀ i : Intent, ∀ k : Nibble, k = chk (controlNibble i) (highByte i.magnitude) (lowByte i.magnitude) →
    (encodeFrame i).b0 = controlNibble i + (zext8 k <<< 4) ∧
    (controlNibble i).toNat + (zext8 k <<< 4).toNat < 256 ∧
    (encodeFrame i).b0 = (controlNibble i ||| (zext8 k <<< 4)) ∧
    (encodeFrame i).b0 = k ++ (controlNibble i).extractLsb' 0 4 ∧
    (controlNibble i = 0x0A → k = 4 → (encodeFrame i).b0 = 0x4A)

/-- R45: byte 0 bit by bit. -/
def Obligations.ControlByteBitByBit : Prop :=
  ∀ i : Intent, ∀ b0 : Byte, b0 = (encodeFrame i).b0 →
    (b0.getLsbD 0 = true ↔ i.motor = .B) ∧ (b0.getLsbD 1 = true ↔ i.enabled = .enabled) ∧
    (b0.getLsbD 2 = true ↔ i.buffer = .hightime) ∧ (b0.getLsbD 3 = true ↔ i.direction = .forward) ∧
    (∀ k < 4, b0.getLsbD (4 + k) = (chk (controlNibble i) (highByte i.magnitude) (lowByte i.magnitude)).getLsbD k) ∧
    lowNibble b0 = ((i.motor.toBit.setWidth 4) ||| (i.enabled.toBit.setWidth 4 <<< 1) |||
      (i.buffer.toBit.setWidth 4 <<< 2) ||| (i.direction.toBit.setWidth 4 <<< 3)) ∧
    (highNibble b0).toNat ≤ 15

/-- R68: the whole encoding function as its pseudocode, and its corner cases and worked example. -/
def Obligations.EncodeFollowsItsPseudocode : Prop :=
  (∀ i : Intent, ∀ c0 b1 b2 cnt : Byte, ∀ k : Nibble,
    c0 = zext8 (i.direction.toBit ++ i.buffer.toBit ++ i.enabled.toBit ++ i.motor.toBit) →
    b1 = i.magnitude.extractLsb' 8 8 → b2 = i.magnitude.extractLsb' 0 8 →
    cnt = (c0 ^^^ 0x09) + (zext8 (b1.extractLsb' 4 4) ^^^ 0x04) + (zext8 (b1.extractLsb' 0 4) ^^^ 0x0D) +
      (zext8 (b2.extractLsb' 4 4) ^^^ 0x02) + (zext8 (b2.extractLsb' 0 4) ^^^ 0x0A) →
    k = cnt.extractLsb' 0 4 → encodeFrame i = ⟨c0 + (zext8 k <<< 4), b1, b2⟩ ∧ cnt ≤ 75) ∧
  encodeFrame ⟨.B, .disabled, .forward, .period, 0x4D2A⟩ = ⟨0x09, 0x4D, 0x2A⟩ ∧
  encodeFrame ⟨.A, .enabled, .backward, .hightime, 0xB2D5⟩ = ⟨0xB6, 0xB2, 0xD5⟩ ∧
  encodeFrame ⟨.A, .disabled, .backward, .period, 0x0000⟩ = ⟨0x60, 0x00, 0x00⟩ ∧
  encodeFrame ⟨.B, .enabled, .forward, .hightime, 0xFFFF⟩ = ⟨0x5F, 0xFF, 0xFF⟩ ∧
  encodeFrame ⟨.A, .enabled, .forward, .period, 200⟩ = ⟨0x4A, 0x00, 0xC8⟩ ∧
  count 0x9 0x4D 0x2A = 0 ∧ count 0x6 0xB2 0xD5 = 75 ∧ count 0xF 0xFF 0xFF = 0x25 ∧ count 0xA 0x00 0xC8 = 0x24

/-- R44: the frame as `FRAME24`, byte 0 in the most significant position, nibble by nibble as the corrected layout table has
it; no frame is lost in that form. -/
def Obligations.Frame24Layout : Prop :=
  (∀ f : Frame, frameOf24 (frame24 f) = f ∧ (frame24 f).toNat = 65536 * f.b0.toNat + 256 * f.b1.toNat + f.b2.toNat) ∧
  (∀ i : Intent,
    (frame24 (encodeFrame i)).extractLsb' 20 4 = chk (controlNibble i) (highByte i.magnitude) (lowByte i.magnitude) ∧
    (frame24 (encodeFrame i)).extractLsb' 16 4 =
      i.direction.toBit ++ i.buffer.toBit ++ i.enabled.toBit ++ i.motor.toBit ∧
    (frame24 (encodeFrame i)).extractLsb' 12 4 = i.magnitude.extractLsb' 12 4 ∧
    (frame24 (encodeFrame i)).extractLsb' 8 4 = i.magnitude.extractLsb' 8 4 ∧
    (frame24 (encodeFrame i)).extractLsb' 4 4 = i.magnitude.extractLsb' 4 4 ∧
    (frame24 (encodeFrame i)).extractLsb' 0 4 = i.magnitude.extractLsb' 0 4) ∧
  frame24 (encodeFrame ⟨.A, .enabled, .forward, .period, 200⟩) = 0x4A00C8

/-- Derived by the spec from R64 and R65, in R75: the 8-bit wrap is never exercised; the bounds 0 and 75 hold and are
attained; the checksum is the true sum modulo 16. -/
def Obligations.CountNeverWraps : Prop :=
  (∀ i : Intent, ∀ n : Nat,
    n = (controlNibble i).toNat.xor 0x9 + (i.magnitude.toNat / 4096).xor 0x4 + (i.magnitude.toNat / 256 % 16).xor 0xD +
      (i.magnitude.toNat / 16 % 16).xor 0x2 + (i.magnitude.toNat % 16).xor 0xA →
    n ≤ 75 ∧ (count (controlNibble i) (highByte i.magnitude) (lowByte i.magnitude)).toNat = n ∧
    (chk (controlNibble i) (highByte i.magnitude) (lowByte i.magnitude)).toNat = n % 16) ∧
  count 0x9 (highByte 0x4D2A) (lowByte 0x4D2A) = 0 ∧ count 0x6 (highByte 0xB2D5) (lowByte 0xB2D5) = 75

/-- Derived from R76: the Intent is read back from the frame, so two Intents have two frames. -/
def Obligations.EncodeIsInjective : Prop :=
  (∀ i : Intent, readBack (encodeFrame i) = i) ∧ ∀ i j : Intent, encodeFrame i = encodeFrame j → i = j

/-- Derived from R49 and R76: the valid frames are exactly the encoded Intents, one for each; 00 00 00 is none. -/
def Obligations.ValidFramesAreTheEncodedIntents : Prop :=
  (∀ f : Frame, validFrame f = true ↔ ∃ i : Intent, encodeFrame i = f ∧ ∀ j, encodeFrame j = f → j = i) ∧
  (∀ f : Frame, validFrame f = true → encodeFrame (readBack f) = f) ∧
  validFrame ⟨0x00, 0x00, 0x00⟩ = false

/-- Derived from R49: "Of the 2^24 possible 3-byte values exactly 2^20 are valid frames". -/
def Obligations.ValidFrameCount : Prop :=
  ((Finset.range (2 ^ 24)).filter (fun n => validFrame (frameOf24 (BitVec.ofNat 24 n)) = true)).card = 2 ^ 20

/-- Derived from R76: each of the 16 values of the checksum occurs for exactly 65536 of the Intents. -/
def Obligations.ChecksumValuesAreEquallyFrequent : Prop :=
  ∀ k : Nibble, ((Finset.range (2 ^ 20)).filter
    (fun n => highNibble (encodeFrame (intentOfRequest (BitVec.ofNat 21 n))).b0 = k)).card = 65536

/-- Derived by the spec from R64, R66 and R49, in R77: changing exactly one of the six nibbles of a valid frame
gives an invalid one, and two changes can cancel. -/
def Obligations.OneChangedNibbleIsDetected : Prop :=
  (∀ w : BitVec 24, validFrame (frameOf24 w) = true → ∀ k < 6, ∀ d : Nibble, d ≠ 0 →
    validFrame (frameOf24 (w ^^^ (d.setWidth 24 <<< (4 * k)))) = false) ∧
  ∃ w : BitVec 24, ∃ j < 6, ∃ k < 6, j ≠ k ∧ ∃ d e : Nibble, d ≠ 0 ∧ e ≠ 0 ∧ validFrame (frameOf24 w) = true ∧
    validFrame (frameOf24 (w ^^^ (d.setWidth 24 <<< (4 * j)) ^^^ (e.setWidth 24 <<< (4 * k)))) = true

/-! ## The safety comparator (40_safety_comparator.md) -/

/-- R53: the predicate as an unsigned comparison, over the Intent for every setting of the thresholds, on the port `safe`,
and as the two document properties for this hardware's setting, of which the rule's corner cases are cases; bit 15 is no
sign. -/
def Obligations.IsSafeIsTheThresholdComparison : Prop :=
  (∀ t i, isSafe t i = true ↔
    (i.buffer = .period ∧ (periodMin t i.motor).toNat ≤ i.magnitude.toNat) ∨
    (i.buffer = .hightime ∧ i.magnitude.toNat ≤ (hightimeMax t i.motor).toNat)) ∧
  (∀ t v, (evalPorts t v).safe = 1 ↔
    (v.buffer = 0 ∧ (if v.motor = 0 then t.periodMinA else t.periodMinB).toNat ≤ v.magnitude.toNat) ∨
    (v.buffer = 1 ∧ v.magnitude.toNat ≤ (if v.motor = 0 then t.hightimeMaxA else t.hightimeMaxB).toNat)) ∧
  (∀ i : Intent, i.buffer = .period → (isSafe thresholds i = true ↔ 150 ≤ i.magnitude.toNat)) ∧
  (∀ i : Intent, i.buffer = .hightime → (isSafe thresholds i = true ↔ i.magnitude.toNat ≤ 50)) ∧
  (∀ m e d, isSafe thresholds ⟨m, e, d, .period, 0x8000⟩ = true ∧ isSafe thresholds ⟨m, e, d, .hightime, 0x8000⟩ = false)

/-- R54: the Period rule for every setting, and how many magnitudes it takes and leaves here. -/
def Obligations.PeriodRuleIsAMinimum : Prop :=
  (∀ t i, i.buffer = .period → (isSafe t i = false ↔ i.magnitude.toNat < (periodMin t i.motor).toNat)) ∧
  (∀ t i, i.buffer = .period → i.magnitude = periodMin t i.motor → isSafe t i = true) ∧
  ∀ m e d,
    ((Finset.range 65536).filter (fun v => isSafe thresholds ⟨m, e, d, .period, BitVec.ofNat 16 v⟩ = false)).card = 150 ∧
    ((Finset.range 65536).filter (fun v => isSafe thresholds ⟨m, e, d, .period, BitVec.ofNat 16 v⟩ = true)).card = 65386

/-- R55: the Hightime rule for every setting, and how many magnitudes it takes and leaves here. -/
def Obligations.HightimeRuleIsAMaximum : Prop :=
  (∀ t i, i.buffer = .hightime → (isSafe t i = false ↔ (hightimeMax t i.motor).toNat < i.magnitude.toNat)) ∧
  (∀ t i, i.buffer = .hightime → i.magnitude = hightimeMax t i.motor → isSafe t i = true) ∧
  ∀ m e d,
    ((Finset.range 65536).filter (fun v => isSafe thresholds ⟨m, e, d, .hightime, BitVec.ofNat 16 v⟩ = true)).card = 51 ∧
    ((Finset.range 65536).filter (fun v => isSafe thresholds ⟨m, e, d, .hightime, BitVec.ofNat 16 v⟩ = false)).card = 65485

/-- R56: exactly one of the two rules applies to any Intent, selected by `buffer`, and the other's thresholds are not
evaluated against it; what the applicable rule does not reject is safe. -/
def Obligations.ExactlyOneRuleApplies : Prop :=
  ∀ t : Thresholds, ∀ i : Intent,
    (i.buffer = .period ∨ i.buffer = .hightime) ∧ ¬ (i.buffer = .period ∧ i.buffer = .hightime) ∧
    (∀ x y, i.buffer = .period → isSafe { t with hightimeMaxA := x, hightimeMaxB := y } i = isSafe t i) ∧
    (∀ x y, i.buffer = .hightime → isSafe { t with periodMinA := x, periodMinB := y } i = isSafe t i) ∧
    (isSafe t i = false ↔ (i.buffer = .period ∧ i.magnitude.toNat < (periodMin t i.motor).toNat) ∨
      (i.buffer = .hightime ∧ (hightimeMax t i.motor).toNat < i.magnitude.toNat))

/-- R57 and R23: the port `safe` carries `is_safe` of the Intent now on the ports, and the predicate depends on `motor`,
`buffer` and `magnitude` only, at the function and at the port; here not even on `motor`. -/
def Obligations.SafeIgnoresTheOtherFields : Prop :=
  (∀ t m b v e d e' d', isSafe t ⟨m, e, d, b, v⟩ = isSafe t ⟨m, e', d', b, v⟩) ∧
  (∀ t v, (evalPorts t v).safe = BitVec.ofBool (isSafe t (intentOf v))) ∧
  (∀ t v e d s r, (evalPorts t { v with enabled := e, direction := d, enforceSafety := s, reqValid := r }).safe =
    (evalPorts t v).safe) ∧
  ∀ i m, isSafe thresholds { i with motor := m } = isSafe thresholds i

/-- R58: each motor is compared with its own entry of the lookup, and with no other: changing the other motor's entries
changes nothing, and a motor's own entry is its threshold, whatever value it has. -/
def Obligations.ThresholdIsLookedUpByMotor : Prop :=
  (∀ t x y e d b v, isSafe { t with periodMinB := x, hightimeMaxB := y } ⟨.A, e, d, b, v⟩ = isSafe t ⟨.A, e, d, b, v⟩) ∧
  (∀ t x y e d b v, isSafe { t with periodMinA := x, hightimeMaxA := y } ⟨.B, e, d, b, v⟩ = isSafe t ⟨.B, e, d, b, v⟩) ∧
  (∀ t e d v, (isSafe t ⟨.A, e, d, .period, v⟩ = true ↔ t.periodMinA.toNat ≤ v.toNat) ∧
    (isSafe t ⟨.B, e, d, .period, v⟩ = true ↔ t.periodMinB.toNat ≤ v.toNat) ∧
    (isSafe t ⟨.A, e, d, .hightime, v⟩ = true ↔ v.toNat ≤ t.hightimeMaxA.toNat) ∧
    (isSafe t ⟨.B, e, d, .hightime, v⟩ = true ↔ v.toNat ≤ t.hightimeMaxB.toNat)) ∧
  (thresholds.periodMinA = 150 ∧ thresholds.periodMinB = 150 ∧ thresholds.hightimeMaxA = 50 ∧ thresholds.hightimeMaxB = 50)

/-- A stop passes the Period threshold for EVERY setting of the thresholds, derived by the spec from R54 and R6 (in R59), so
`CRAFT.S` never declines one, and it is encoded like any other Intent (R59). -/
def Obligations.StopIsNeverDeclined : Prop :=
  ∀ t : Thresholds, ∀ i : Intent, i.buffer = .period → i.magnitude = 0xFFFF →
    isSafe t i = true ∧ craftMessage t i true = some (encodeFrame i) ∧ craftMessage t i false = some (encodeFrame i) ∧
    ∀ s, ∃ s', exec (.craftS i) s = .next s' ∧ s'.outputs.frameValid = 1 ∧
      s'.results = s.results ++ [⟨true, some (encodeFrame i)⟩]

/-! ## The ports (10_state.md; 41_frame_encoder.md R71) -/

/-- R71: the port-level block, bit by bit, is the function-level `craft_message` on the Intent the ports carry, row by row
of the rule's table. -/
def Obligations.PortsAgreeWithTheFunctions : Prop :=
  ∀ t : Thresholds, ∀ v : Inputs,
    (evalPorts t v).safe = BitVec.ofBool (isSafe t (intentOf v)) ∧
    (evalPorts t v).frameValid = (v.reqValid &&& (~~~ v.enforceSafety ||| (evalPorts t v).safe)) ∧
    declinePort t v = (v.reqValid &&& v.enforceSafety &&& ~~~ (evalPorts t v).safe) ∧
    (v.reqValid = 0 → (evalPorts t v).frameValid = 0) ∧
    (v.reqValid = 1 → ((evalPorts t v).frameValid = 1 ↔ (craftMessage t (intentOf v) (v.enforceSafety == 1)).isSome)) ∧
    (∀ f, v.reqValid = 1 → craftMessage t (intentOf v) (v.enforceSafety == 1) = some f →
      (evalPorts t v).frameB0 = f.b0 ∧ (evalPorts t v).frameB1 = f.b1 ∧ (evalPorts t v).frameB2 = f.b2) ∧
    ((evalPorts t v).frameValid = 0 →
      (evalPorts t v).frameB0 = 0 ∧ (evalPorts t v).frameB1 = 0 ∧ (evalPorts t v).frameB2 = 0) ∧
    (declinePort t v = 1 ↔ v.reqValid = 1 ∧ (evalPorts t v).frameValid = 0) ∧
    (declinePort t v = 1 ↔ v.reqValid = 1 ∧ craftMessage t (intentOf v) (v.enforceSafety == 1) = none)

/-- R24: `frame_valid` as its equation, on bits and as a condition. -/
def Obligations.FrameValidEquation : Prop :=
  ∀ t : Thresholds, ∀ v : Inputs,
    (evalPorts t v).frameValid = (v.reqValid &&& (~~~ v.enforceSafety ||| (evalPorts t v).safe)) ∧
    ((evalPorts t v).frameValid = 1 ↔ v.reqValid = 1 ∧ (v.enforceSafety = 0 ∨ isSafe t (intentOf v) = true))

/-- R25: the frame ports hold the encoded frame when `frame_valid` = 1 and 0x00 when it is 0, and 00 00 00 is no valid
frame. -/
def Obligations.FramePortsHoldTheFrameOrZero : Prop :=
  (∀ t : Thresholds, ∀ v : Inputs,
    (⟨(evalPorts t v).frameB0, (evalPorts t v).frameB1, (evalPorts t v).frameB2⟩ : Frame) =
      if (evalPorts t v).frameValid = 1 then encodeFrame (intentOf v) else ⟨0x00, 0x00, 0x00⟩) ∧
  validFrame ⟨0x00, 0x00, 0x00⟩ = false

/-- R21: `enforce_safety` reads into the gate alone: it changes neither `safe` nor a byte of a frame that is produced; at 0
a presented request is encoded whatever `safe` says, at 1 an unsafe one is declined. -/
def Obligations.EnforceSafetyOnlySuppresses : Prop :=
  ∀ t : Thresholds, ∀ v : Inputs, ∀ s : Bit,
    (evalPorts t { v with enforceSafety := s }).safe = (evalPorts t v).safe ∧
    ((evalPorts t { v with enforceSafety := s }).frameValid = 1 → (evalPorts t v).frameValid = 1 →
      evalPorts t { v with enforceSafety := s } = evalPorts t v) ∧
    (v.reqValid = 1 → (evalPorts t { v with enforceSafety := 0 }).frameValid = 1) ∧
    ((evalPorts t { v with enforceSafety := 1 }).frameValid = 1 → isSafe t (intentOf v) = true)

/-- R72: where the checked form produces a frame the two forms agree, enforcing can only suppress, and the result depends on
the Intent, on `enforce_safety` and, through `is_safe`, on the thresholds alone: not on what state a request meets. -/
def Obligations.CheckedAndUncheckedAgree : Prop :=
  ∀ t : Thresholds, ∀ i : Intent,
    (isSafe t i = true → craftMessage t i true = craftMessage t i false ∧ craftMessage t i true = some (encodeFrame i)) ∧
    (∀ f, craftMessage t i true = some f → craftMessage t i false = some f) ∧
    (craftMessage t i true = none ↔ isSafe t i = false) ∧ craftMessage t i false ≠ none ∧
    (∀ t' e, isSafe t' i = isSafe t i → craftMessage t' i e = craftMessage t i e) ∧
    ∀ x : Instr, ∀ a b a' b' : State, exec x a = .next a' → exec x b = .next b' →
      a'.outputs = b'.outputs ∧ a'.results.getLast? = b'.results.getLast?

/-- R42: the request word field by field as its table packs the ports, the strobe no part of it, `REQ[19:16]` the control
nibble; and presenting an instruction puts its own word and Intent on the ports. -/
def Obligations.PresentationCarriesTheRequest : Prop :=
  (∀ v : Inputs, (requestOf v).extractLsb' 20 1 = v.enforceSafety ∧ (requestOf v).extractLsb' 19 1 = v.direction ∧
    (requestOf v).extractLsb' 18 1 = v.buffer ∧ (requestOf v).extractLsb' 17 1 = v.enabled ∧
    (requestOf v).extractLsb' 16 1 = v.motor ∧ (requestOf v).extractLsb' 0 16 = v.magnitude ∧
    zext8 ((requestOf v).extractLsb' 16 4) = controlNibble (intentOf v) ∧
    (∀ r, requestOf { v with reqValid := r } = requestOf v) ∧ (requestOf v).toNat ≤ 0x1FFFFF) ∧
  (∀ x : Instr, requestOf (presentation x) = encode x ∧ intentOf (presentation x) = x.intent ∧
    (presentation x).enforceSafety = x.opcodeBit ∧ (presentation x).reqValid = 1) ∧
  (∀ v : Inputs, v.reqValid = 1 → presentation (decodeRequest (requestOf v)) = v)

/-! ## The two request forms (41_frame_encoder.md R69, R70) -/

/-- R69: `CRAFT.U` completes in every state and never declines; the frame is `encode(i)` whatever `safe` says. The bytes
FE 00 3C of the last clause, which the source does not give (91_not_in_source.md N11), the spec derives from R68. -/
def Obligations.CraftUAlwaysProducesTheFrame : Prop :=
  (∀ t i, craftMessage t i false = some (encodeFrame i)) ∧ (∀ i, (encode (.craftU i)).getLsbD 20 = false) ∧
  (∀ i : Intent, ∀ s : State, exec (.craftU i) s = .next {
    inputs  := s.inputs
    outputs := { safe := if isSafe thresholds i then 1 else 0, frameValid := 1, frameB0 := (encodeFrame i).b0,
                 frameB1 := (encodeFrame i).b1, frameB2 := (encodeFrame i).b2 }
    pending := s.pending
    results := s.results ++ [⟨isSafe thresholds i, some (encodeFrame i)⟩] }) ∧
  isSafe thresholds ⟨.A, .enabled, .forward, .hightime, 60⟩ = false ∧
  encodeFrame ⟨.A, .enabled, .forward, .hightime, 60⟩ = ⟨0xFE, 0x00, 0x3C⟩

/-- R70: `CRAFT.S` completes in every state: on a safe Intent it produces the frame of the unchecked form, on an unsafe one
it produces none and the frame ports show 00 00 00. -/
def Obligations.CraftSProducesTheFrameIffSafe : Prop :=
  (∀ t i, craftMessage t i true = if isSafe t i then some (encodeFrame i) else none) ∧
  (∀ i, (encode (.craftS i)).getLsbD 20 = true) ∧
  (∀ i : Intent, ∀ s : State, isSafe thresholds i = true → exec (.craftS i) s = .next {
    inputs  := s.inputs
    outputs := { safe := 1, frameValid := 1, frameB0 := (encodeFrame i).b0, frameB1 := (encodeFrame i).b1,
                 frameB2 := (encodeFrame i).b2 }
    pending := s.pending
    results := s.results ++ [⟨true, some (encodeFrame i)⟩] }) ∧
  (∀ i : Intent, ∀ s : State, isSafe thresholds i = false → exec (.craftS i) s = .next {
    inputs  := s.inputs
    outputs := { safe := 0, frameValid := 0, frameB0 := 0x00, frameB1 := 0x00, frameB2 := 0x00 }
    pending := s.pending
    results := s.results ++ [⟨false, none⟩] }) ∧
  (∀ m e d, isSafe thresholds ⟨m, e, d, .period, 150⟩ = true ∧ isSafe thresholds ⟨m, e, d, .period, 149⟩ = false ∧
    isSafe thresholds ⟨m, e, d, .hightime, 50⟩ = true ∧ isSafe thresholds ⟨m, e, d, .hightime, 51⟩ = false) ∧
  craftMessage thresholds ⟨.A, .enabled, .forward, .period, 200⟩ true = some ⟨0x4A, 0x00, 0xC8⟩ ∧
  craftMessage thresholds ⟨.A, .enabled, .forward, .hightime, 60⟩ true = none

/-- Derived from R26 and R38, the frame of both request forms: "the block drives no input port", so the input ports, what
the command source has still to present and every earlier result are unchanged, one result is added, and the new outputs and
the new result depend on nothing the state held. -/
def Obligations.RequestFormsChangeOnlyTheirResult : Prop :=
  ∀ x : Instr, ∀ s s' t t' : State, exec x s = .next s' → exec x t = .next t' →
    s'.inputs = s.inputs ∧ s'.pending = s.pending ∧ s'.results.length = s.results.length + 1 ∧
    s'.results.take s.results.length = s.results ∧ s'.outputs = t'.outputs ∧
    s'.results.drop s.results.length = t'.results.drop t.results.length

/-- R73 and R82: a presented request has exactly one of two outcomes, and the decline is that of `CRAFT.S` on an unsafe
Intent alone. -/
def Obligations.OnlyTwoOutcomes : Prop :=
  ∀ x : Instr, ∀ s : State, ∃ s' r, exec x s = .next s' ∧ s'.results = s.results ++ [r] ∧
    (r.outcome = .frame (encodeFrame x.intent) ∨ r.outcome = .declined) ∧
    (r.outcome = .declined ↔ x = .craftS x.intent ∧ isSafe thresholds x.intent = false) ∧
    (r.outcome = .declined → s'.outputs = ⟨0, 0, 0x00, 0x00, 0x00⟩) ∧
    (∀ f, r.outcome = .frame f → s'.outputs = ⟨BitVec.ofBool (isSafe thresholds x.intent), 1, f.b0, f.b1, f.b2⟩)

/-! ## Steps and runs (00_scope.md R5; 92_eei_decisions.md D20) -/

/-- Derived from R5 and D20. A step runs the decoded instruction: a presented request is `exec` of what the decoder reads
from the ports, in the state in which the command source has put the vector on the ports. -/
def Obligations.StepRunsThePresentedRequest : Prop :=
  ∀ s : State, ∀ v rest, s.pending = v :: rest → v.reqValid = 1 →
    step s = exec (decodeRequest (requestOf v)) { s with inputs := v, pending := rest }

/-- The host's interface (log 6): a word of the opcode table, stored where the next step takes its request from, is run by
that very step; a number that is no request word runs nothing. -/
def Obligations.FetchWordIsRunByTheNextStep : Prop :=
  (∀ s : State, ∀ x : Instr,
    step (s.withFetchWord 24 (encode x).toNat) = exec x { s with inputs := presentation x }) ∧
  (∀ s : State, ∀ n w, 0x1FFFFF < w % 2 ^ n → ∃ s', step (s.withFetchWord n w) = .next s' ∧ s'.results = s.results ∧
    s'.pending = s.pending ∧ s'.outputs.frameValid = 0)

/-- R79: no step faults and none refuses, in any state, so every run of any length goes on. -/
def Obligations.NoStepEverStops : Prop :=
  (∀ s : State, ∃ s', step s = .next s') ∧ ∀ n : Nat, ∀ s : State, ∃ s', core.run n s = .next s'

/-- Derived from R13, R49 and R80, the invariant of every step: from ANY state with `Inv` a step gives a state with `Inv`;
and the outputs follow the inputs after a step from any state at all. -/
def Obligations.StepKeepsTheInvariant : Prop :=
  (∀ s s' : State, Inv thresholds s → step s = .next s' → Inv thresholds s') ∧
  ∀ s s' : State, step s = .next s' → Settled thresholds s'

/-- Derived from R93 and R94: the state after reset meets the invariant. The values on the Intent ports at reset are the
model's choice (log 2). -/
def Obligations.ResetMeetsTheInvariant : Prop := Inv thresholds State.reset

/-- Derived from R94: whatever the Intent ports carry while `req_valid` = 0, no frame and zeros, and `safe` follows the
Intent ports; the thresholds and masks are those of the build. It holds of a reset state with any Intent on the ports, so no
value the model chose (log 2) is relied on. How vectors are presented is the model's own (logs 1 and 3). -/
def Obligations.OutputsWhileNoRequestIsPresented : Prop :=
  (∀ s s' : State, ∀ v : Inputs, v.reqValid = 0 → step { s with pending := v :: s.pending } = .next s' →
    s'.outputs = ⟨BitVec.ofBool (isSafe thresholds (intentOf v)), 0, 0x00, 0x00, 0x00⟩ ∧ s'.results = s.results ∧
    s'.pending = s.pending) ∧
  (∀ s s' : State, s.pending = [] → s.inputs.reqValid = 0 → step s = .next s' →
    s'.outputs = ⟨BitVec.ofBool (isSafe thresholds (intentOf s.inputs)), 0, 0x00, 0x00, 0x00⟩ ∧ s'.results = s.results) ∧
  State.reset.inputs.reqValid = 0 ∧ State.reset.outputs.frameValid = 0 ∧ State.reset.outputs.frameB0 = 0x00 ∧
  State.reset.outputs.frameB1 = 0x00 ∧ State.reset.outputs.frameB2 = 0x00 ∧
  thresholds = ⟨150, 150, 50, 50⟩ ∧ [kC0, kHi1, kLo1, kHi2, kLo2] = [0x9, 0x4, 0xD, 0x2, 0xA]

/-- The model's reading (log 3) of R102, "a request held for a long time is still one transaction and stands for one frame":
with nothing new presented, a settled state is a fixed point of any number of steps. -/
def Obligations.HeldRequestIsOneTransaction : Prop :=
  (∀ s : State, ∀ n : Nat, s.pending = [] → Settled thresholds s → core.run n s = .next s) ∧
  ∀ s s' : State, s.pending = [] → step s = .next s' → s'.inputs = s.inputs ∧ s'.results = s.results ∧ s'.pending = []

/-- Derived from R13 and R38: what a step shows and adds to the record is a function of the vector presented, whatever the
ports, the outputs and the record held before. -/
def Obligations.EarlierTransactionsLeaveNoTrace : Prop :=
  ∀ s t s' t' : State, ∀ v : Inputs, ∀ ps qs, s.pending = v :: ps → t.pending = v :: qs →
    step s = .next s' → step t = .next t' →
    s'.inputs = t'.inputs ∧ s'.outputs = t'.outputs ∧ s'.outputs = evalPorts thresholds v ∧
    s'.results.drop s.results.length = t'.results.drop t.results.length ∧
    s'.results = s.results ++ (resultOf thresholds v).toList

/-- Derived from R38: over a whole run the n-th request yields the n-th result, each determined at its own point by its own
vector, from any state and after any history. -/
def Obligations.RunResultsAreTheResultsOfEachRequest : Prop :=
  ∀ s : State, ∃ s', core.run s.pending.length s = .next s' ∧ s'.pending = [] ∧
    s'.results = s.results ++ s.pending.filterMap (resultOf thresholds) ∧
    (∀ v, s.pending.getLast? = some v → s'.inputs = v ∧ s'.outputs = evalPorts thresholds v)

/-- Derived from R38, "any interleaving of two request streams gives, for each request, the same result as that request
alone", and R86, "Declines do not accumulate": presenting the same vectors in another order gives the same results,
reordered. -/
def Obligations.ReorderedRequestsGiveReorderedResults : Prop :=
  ∀ s t s' t' : State, s.results = [] → t.results = [] → s.pending.Perm t.pending →
    core.run s.pending.length s = .next s' → core.run t.pending.length t = .next t' → s'.results.Perm t'.results

/-- Derived from R100, for runs: a caller that ties `enforce_safety` to 1 gets only frames of safe Intents, and never one
that was declined; the promise fails as soon as the bypass is used (R87). -/
def Obligations.EnforcedRunHandsOverOnlySafeFrames : Prop :=
  (∀ s s' : State, ∀ n : Nat, Enforced s → OnlySafeFrames thresholds s.results → core.run n s = .next s' →
    OnlySafeFrames thresholds s'.results) ∧
  ∃ s s' : State, s.results = [] ∧ core.run 1 s = .next s' ∧ ¬ OnlySafeFrames thresholds s'.results

/-- Derived from R41, R51, R102 and D20: the byte stream of any record is whole frames of three bytes, and cutting it every
three bytes from its start gives back exactly the produced frames in order, and so, after a run, the Intents. The order of
the bytes is presumed (log 10). -/
def Obligations.ByteStreamCutsBackIntoFrames : Prop :=
  (∀ rs : List Result, (byteStream rs).length = 3 * (rs.filterMap Result.frame).length ∧
    cutFrames (byteStream rs) = rs.filterMap Result.frame) ∧
  ∀ s s' : State, s.results = [] → core.run s.pending.length s = .next s' →
    (cutFrames (byteStream s'.results)).map readBack = (s.pending.filter
      (fun v => v.reqValid = 1 ∧ (v.enforceSafety = 0 ∨ isSafe thresholds (intentOf v) = true))).map intentOf

/-- Derived from R80 and R86: `CRAFT.S` on an unsafe Intent is a completed step that hands over no bytes, shows `safe` = 0
and leaves nothing behind: the request that follows runs as if it had not been presented. -/
def Obligations.DeclineLeavesNothingBehind : Prop :=
  ∀ i : Intent, isSafe thresholds i = false → ∀ s : State,
    (∃ s', step { s with pending := presentation (.craftS i) :: s.pending } = .next s' ∧
      s'.outputs = ⟨0, 0, 0x00, 0x00, 0x00⟩ ∧ byteStream s'.results = byteStream s.results ∧ s'.pending = s.pending) ∧
    ∀ a b : State, ∀ v ps, s.pending = v :: ps →
      core.run 2 { s with pending := presentation (.craftS i) :: s.pending } = .next a → core.run 1 s = .next b →
      a.inputs = b.inputs ∧ a.outputs = b.outputs ∧ a.pending = b.pending ∧
      byteStream a.results = byteStream b.results

/-! ## The written syntax (30_encoding.md R52) -/

/-- Derived from R52: a written line is read back whole, with every operand at every value, and presents what R52 allows. The
spelling details are the model's choice, and so is which of the expansions R52 allows `ISSAFE` takes, the ports driven with
`req_valid` = 0, on which its `frame_valid` = 0 rests (log 7). -/
def Obligations.WrittenLinesReadBack : Prop :=
  (∀ l : Line, readLine (writeLine l) = some l) ∧
  (∀ i : Intent, expand ⟨.encode, i⟩ = expand ⟨.craftU, i⟩ ∧ expand ⟨.craftU, i⟩ = presentation (.craftU i) ∧
    expand ⟨.craftS, i⟩ = presentation (.craftS i)) ∧
  ∀ t : Thresholds, ∀ i : Intent, (evalPorts t (expand ⟨.isSafe, i⟩)).safe = BitVec.ofBool (isSafe t i) ∧
    (evalPorts t (expand ⟨.isSafe, i⟩)).frameValid = 0

/-- Derived from R52: a decimal numeral 0 to 65535 is read as its number, and one above is refused. -/
def Obligations.DecimalMagnitudesAreRead : Prop :=
  ∀ n : Nat, readMagnitude (Nat.toDigits 10 n) = if n ≤ 65535 then some (BitVec.ofNat 16 n) else none
end

