-- ==== Sys2Proof/Laws/Bits.lean ====
section
/-! SUPPORT. Bits: nibbles, bytes and the magnitude as numbers, and as concatenations of their parts (00_scope.md R9, R10). -/

namespace Sys2Proof.Machine

theorem zext8_toNat {n : Nat} (v : BitVec n) (h : n ≤ 8) : (zext8 v).toNat = v.toNat := by
  simp only [zext8, BitVec.toNat_setWidth]
  exact Nat.mod_eq_of_lt (lt_of_lt_of_le v.isLt (Nat.pow_le_pow_right (by omega) h))

@[simp] theorem zext8_nibble_toNat (n : Nibble) : (zext8 n).toNat = n.toNat := zext8_toNat n (by omega)

theorem highNibble_toNat (b : Byte) : (highNibble b).toNat = b.toNat / 16 := by
  have := b.isLt
  simp only [highNibble, BitVec.extractLsb'_toNat, Nat.shiftRight_eq_div_pow]
  omega

theorem lowNibble_toNat (b : Byte) : (lowNibble b).toNat = b.toNat % 16 := by
  simp [lowNibble, BitVec.extractLsb'_toNat]

theorem highByte_toNat (v : Magnitude) : (highByte v).toNat = v.toNat / 256 := by
  have := v.isLt
  simp only [highByte, BitVec.extractLsb'_toNat, Nat.shiftRight_eq_div_pow]
  omega

theorem lowByte_toNat (v : Magnitude) : (lowByte v).toNat = v.toNat % 256 := by
  simp [lowByte, BitVec.extractLsb'_toNat]

theorem nibbles_append_toNat (a b : Nibble) : (a ++ b : BitVec 8).toNat = 16 * a.toNat + b.toNat := by
  have := b.isLt
  rw [BitVec.toNat_append, ← Nat.shiftLeft_add_eq_or_of_lt (by omega), Nat.shiftLeft_eq]
  omega

theorem bytes_append_toNat (a b : Byte) : (a ++ b : BitVec 16).toNat = 256 * a.toNat + b.toNat := by
  have := b.isLt
  rw [BitVec.toNat_append, ← Nat.shiftLeft_add_eq_or_of_lt (by omega), Nat.shiftLeft_eq]
  omega

@[simp] theorem highNibble_append_lowNibble (b : Byte) : highNibble b ++ lowNibble b = b := by
  apply BitVec.eq_of_toNat_eq
  rw [nibbles_append_toNat, highNibble_toNat, lowNibble_toNat]
  omega

@[simp] theorem highNibble_append (a b : Nibble) : highNibble (a ++ b) = a := by
  apply BitVec.eq_of_toNat_eq
  have := b.isLt
  rw [highNibble_toNat, nibbles_append_toNat]
  omega

@[simp] theorem lowNibble_append (a b : Nibble) : lowNibble (a ++ b) = b := by
  apply BitVec.eq_of_toNat_eq
  have := b.isLt
  rw [lowNibble_toNat, nibbles_append_toNat]
  omega

@[simp] theorem lowNibble_zext8 (n : Nibble) : lowNibble (zext8 n) = n := by
  apply BitVec.eq_of_toNat_eq
  have := n.isLt
  rw [lowNibble_toNat, zext8_nibble_toNat]
  omega

@[simp] theorem highByte_append_lowByte (v : Magnitude) : highByte v ++ lowByte v = v := by
  apply BitVec.eq_of_toNat_eq
  rw [bytes_append_toNat, highByte_toNat, lowByte_toNat]
  omega

@[simp] theorem highByte_append (a b : Byte) : highByte (a ++ b) = a := by
  apply BitVec.eq_of_toNat_eq
  have := b.isLt
  rw [highByte_toNat, bytes_append_toNat]
  omega

@[simp] theorem lowByte_append (a b : Byte) : lowByte (a ++ b) = b := by
  apply BitVec.eq_of_toNat_eq
  have := b.isLt
  rw [lowByte_toNat, bytes_append_toNat]
  omega

/-- A bit is 0 or 1. -/
theorem bit_cases (b : Bit) : b = 0 ∨ b = 1 := by
  revert b
  decide

theorem ofBool_eq_one (b : Bool) : BitVec.ofBool b = 1 ↔ b = true := by
  revert b
  decide

theorem ofBool_eq_zero (b : Bool) : BitVec.ofBool b = 0 ↔ b = false := by
  revert b
  decide

end Sys2Proof.Machine
end

