-- ==== Sys2Proof/Laws/Request.lean ====
section
/-! SUPPORT. Request: the one-bit encodings undo each other, and what each field of a request word and of the ports is
(30_encoding.md R42, R43). -/

namespace Sys2Proof

@[simp] theorem Motor.ofBit_toBit (m : Motor) : Motor.ofBit m.toBit = m := by cases m <;> rfl
@[simp] theorem Enabled.ofBit_toBit (e : Enabled) : Enabled.ofBit e.toBit = e := by cases e <;> rfl
@[simp] theorem Buffer.ofBit_toBit (b : Buffer) : Buffer.ofBit b.toBit = b := by cases b <;> rfl
@[simp] theorem Direction.ofBit_toBit (d : Direction) : Direction.ofBit d.toBit = d := by cases d <;> rfl

@[simp] theorem Motor.toBit_ofBit (b : Bit) : (Motor.ofBit b).toBit = b := by revert b; decide
@[simp] theorem Enabled.toBit_ofBit (b : Bit) : (Enabled.ofBit b).toBit = b := by revert b; decide
@[simp] theorem Buffer.toBit_ofBit (b : Bit) : (Buffer.ofBit b).toBit = b := by revert b; decide
@[simp] theorem Direction.toBit_ofBit (b : Bit) : (Direction.ofBit b).toBit = b := by revert b; decide

@[simp] theorem Instr.intent_craftU (i : Intent) : (Instr.craftU i).intent = i := rfl
@[simp] theorem Instr.intent_craftS (i : Intent) : (Instr.craftS i).intent = i := rfl
@[simp] theorem Instr.opcodeBit_craftU (i : Intent) : (Instr.craftU i).opcodeBit = 0 := rfl
@[simp] theorem Instr.opcodeBit_craftS (i : Intent) : (Instr.craftS i).opcodeBit = 1 := rfl

/-- A request word is the concatenation of its six fields. -/
theorem requestWord_eq_fields (w : ReqWord) :
    w.extractLsb' 20 1 ++ w.extractLsb' 19 1 ++ w.extractLsb' 18 1 ++ w.extractLsb' 17 1 ++ w.extractLsb' 16 1
      ++ w.extractLsb' 0 16 = w := by
  apply BitVec.eq_of_getLsbD_eq
  intro i hi
  simp only [BitVec.getLsbD_append, BitVec.getLsbD_extractLsb']
  interval_cases i <;> simp

/-- The fields of a concatenation of six fields: the opcode bit, and then one after another (R42). -/
theorem fields_of_requestWord (s d b e m : Bit) (v : Magnitude) (w : ReqWord) (h : w = s ++ d ++ b ++ e ++ m ++ v) :
    w.extractLsb' 20 1 = s ∧ w.extractLsb' 19 1 = d ∧ w.extractLsb' 18 1 = b ∧ w.extractLsb' 17 1 = e ∧
      w.extractLsb' 16 1 = m ∧ w.extractLsb' 0 16 = v := by
  subst h
  refine ⟨?_, ?_, ?_, ?_, ?_, ?_⟩ <;> apply BitVec.eq_of_getLsbD_eq <;> intro i hi <;>
    simp only [BitVec.getLsbD_append, BitVec.getLsbD_extractLsb'] <;> interval_cases i <;> simp

theorem isRequestWord_iff (w : Nat) : isRequestWord w = true ↔ w < 2 ^ 21 := by
  simp only [isRequestWord, decide_eq_true_eq]
  omega

/-- Laying a number of 24 bits out as bytes and reading the bytes gives the number back (log 5). -/
theorem wordOfBytes_layout {n : Nat} (h : n < 2 ^ 24) :
    wordOfBytes (BitVec.ofNat 8 n) (BitVec.ofNat 8 (n / 256)) (BitVec.ofNat 8 (n / 65536)) = n := by
  simp only [wordOfBytes, BitVec.toNat_ofNat]
  omega

/-- The opcode mask keeps the opcode bit alone (R47). -/
theorem and_opcodeMask_eq_matchCraftU (w : ReqWord) : w &&& opcodeMask = matchCraftU ↔ w.extractLsb' 20 1 = 0 := by
  have hw : w.extractLsb' 20 1 = BitVec.ofBool (w.getLsbD 20) := by
    apply BitVec.eq_of_getLsbD_eq
    intro i hi
    interval_cases i
    simp
  have hm : ∀ i < 21, opcodeMask.getLsbD i = decide (i = 20) := by decide
  rw [hw]
  constructor
  · intro h
    have h20 := congrArg (BitVec.getLsbD · 20) h
    simp only [BitVec.getLsbD_and, hm 20 (by omega)] at h20
    have : w.getLsbD 20 = false := by simpa [matchCraftU] using h20
    rw [this]
    rfl
  · intro h
    have h20 : w.getLsbD 20 = false := by
      revert h
      cases w.getLsbD 20 <;> decide
    apply BitVec.eq_of_getLsbD_eq
    intro i hi
    rw [BitVec.getLsbD_and, hm i hi]
    by_cases hi20 : i = 20
    · rw [hi20, h20]
      rfl
    · simp [hi20, matchCraftU]

end Sys2Proof

namespace Sys2Proof.Machine

@[simp] theorem requestOf_driveWord (w : ReqWord) (r : Bit) : requestOf (driveWord w r) = w := requestWord_eq_fields w

/-- The Intent the ports carry is the one their request word holds, whatever the strobe (R42, R71). -/
theorem intentOfRequest_requestOf (v : Inputs) : intentOfRequest (requestOf v) = intentOf v := by
  obtain ⟨-, hd, hb, he, hm, hv⟩ := fields_of_requestWord _ _ _ _ _ _ (requestOf v) rfl
  simp only [intentOfRequest, intentOf, hd, hb, he, hm, hv]

/-- The form a vector presents is its `enforce_safety` port (R47). -/
theorem decodeRequest_requestOf (v : Inputs) :
    decodeRequest (requestOf v) = if v.enforceSafety = 0 then .craftU (intentOf v) else .craftS (intentOf v) := by
  obtain ⟨hs, -⟩ := fields_of_requestWord _ _ _ _ _ _ (requestOf v) rfl
  simp only [decodeRequest, and_opcodeMask_eq_matchCraftU, hs, intentOfRequest_requestOf]

end Sys2Proof.Machine
end

