-- ==== Sys2Proof/Laws/Frame.lean ====
section
/-! SUPPORT. Frame: what the pieces of a frame are (41_frame_encoder.md R61 to R68). -/

namespace Sys2Proof.Machine

/-- The four control bits as a nibble, side by side (R61). -/
def controlBits (i : Intent) : Nibble := i.direction.toBit ++ i.buffer.toBit ++ i.enabled.toBit ++ i.motor.toBit

theorem sum_of_control_bits : ∀ d b e m : Bit,
    zext8 m + 2 * zext8 e + 4 * zext8 b + 8 * zext8 d = zext8 (d ++ b ++ e ++ m) := by decide

/-- R61: the sum of the four bits is their concatenation. -/
theorem controlNibble_eq_zext8 (i : Intent) : controlNibble i = zext8 (controlBits i) :=
  sum_of_control_bits _ _ _ _

/-- R67: the addition that builds byte 0 never carries. -/
theorem controlByte_zext8 (n k : Nibble) : controlByte (zext8 n) k = k ++ n := by
  apply BitVec.eq_of_toNat_eq
  have := k.isLt
  have := n.isLt
  simp only [controlByte, BitVec.toNat_add, BitVec.toNat_shiftLeft, zext8_nibble_toNat, nibbles_append_toNat,
    Nat.shiftLeft_eq]
  omega

/-- Every frame the encoder makes: checksum nibble above control nibble, then the magnitude. -/
theorem assemble_zext8 (n : Nibble) (b1 b2 : Byte) : assemble (zext8 n) b1 b2 = ⟨chk (zext8 n) b1 b2 ++ n, b1, b2⟩ := by
  simp only [assemble, controlByte_zext8]

theorem encodeFrame_eq (i : Intent) : encodeFrame i =
    ⟨chk (controlNibble i) (highByte i.magnitude) (lowByte i.magnitude) ++ controlBits i, highByte i.magnitude,
      lowByte i.magnitude⟩ := by
  rw [encodeFrame, controlNibble_eq_zext8, assemble_zext8]

theorem validFrame_iff (f : Frame) : validFrame f = true ↔ highNibble f.b0 = chk (zext8 (lowNibble f.b0)) f.b1 f.b2 := by
  simp [validFrame]

/-- The control bits are the four lowest bits of byte 0. -/
theorem controlBits_getLsbD (i : Intent) :
    (controlBits i).extractLsb' 0 1 = i.motor.toBit ∧ (controlBits i).extractLsb' 1 1 = i.enabled.toBit ∧
      (controlBits i).extractLsb' 2 1 = i.buffer.toBit ∧ (controlBits i).extractLsb' 3 1 = i.direction.toBit := by
  have key : ∀ d b e m : Bit, (d ++ b ++ e ++ m : Nibble).extractLsb' 0 1 = m ∧
      (d ++ b ++ e ++ m : Nibble).extractLsb' 1 1 = e ∧ (d ++ b ++ e ++ m : Nibble).extractLsb' 2 1 = b ∧
      (d ++ b ++ e ++ m : Nibble).extractLsb' 3 1 = d := by decide
  exact key _ _ _ _

/-- A masked nibble is again a nibble (R64). -/
theorem masked_toNat_le (n k : Nibble) : (zext8 n ^^^ zext8 k).toNat ≤ 15 := by
  have : zext8 n ^^^ zext8 k = zext8 (n ^^^ k) := by
    revert n k
    decide
  have := (n ^^^ k).isLt
  simp_all
  omega

/-- R65, R75: `count` as the true sum, for a control operand that is a nibble. -/
theorem count_toNat (n : Nibble) (b1 b2 : Byte) :
    (count (zext8 n) b1 b2).toNat = (zext8 n ^^^ kC0).toNat + (zext8 (highNibble b1) ^^^ kHi1).toNat
      + (zext8 (lowNibble b1) ^^^ kLo1).toNat + (zext8 (highNibble b2) ^^^ kHi2).toNat
      + (zext8 (lowNibble b2) ^^^ kLo2).toNat := by
  have h0 := masked_toNat_le n 0x9
  have h1 := masked_toNat_le (highNibble b1) 0x4
  have h2 := masked_toNat_le (lowNibble b1) 0xD
  have h3 := masked_toNat_le (highNibble b2) 0x2
  have h4 := masked_toNat_le (lowNibble b2) 0xA
  have e0 : zext8 (0x9 : Nibble) = kC0 := by decide
  have e1 : zext8 (0x4 : Nibble) = kHi1 := by decide
  have e2 : zext8 (0xD : Nibble) = kLo1 := by decide
  have e3 : zext8 (0x2 : Nibble) = kHi2 := by decide
  have e4 : zext8 (0xA : Nibble) = kLo2 := by decide
  rw [e0] at h0; rw [e1] at h1; rw [e2] at h2; rw [e3] at h3; rw [e4] at h4
  simp only [count, BitVec.toNat_add]
  omega

/-- R66: the checksum nibble as a number. -/
theorem chk_toNat (c0 b1 b2 : Byte) : (chk c0 b1 b2).toNat = (count c0 b1 b2).toNat % 16 := by
  have h : ∀ b : Byte, (lowNibble (b &&& 0xF)).toNat = b.toNat % 16 := by decide
  exact h _

end Sys2Proof.Machine
end

