-- ==== Sys2Proof/Laws/Comparator.lean ====
section
/-! SUPPORT. Comparator: the safety predicate as a comparison of numbers (40_safety_comparator.md R53), `craft_message` in
its two forms, and the ports against the functions (00_scope.md R12). -/

namespace Sys2Proof.Machine

theorem isSafe_of_period (t : Thresholds) {i : Intent} (h : i.buffer = .period) :
    isSafe t i = decide ((periodMin t i.motor).toNat ≤ i.magnitude.toNat) := by
  simp [isSafe, h, BitVec.ule]

theorem isSafe_of_hightime (t : Thresholds) {i : Intent} (h : i.buffer = .hightime) :
    isSafe t i = decide (i.magnitude.toNat ≤ (hightimeMax t i.motor).toNat) := by
  simp [isSafe, h, BitVec.ule]

@[simp] theorem craftMessage_false (t : Thresholds) (i : Intent) : craftMessage t i false = some (encodeFrame i) := rfl

theorem craftMessage_true (t : Thresholds) (i : Intent) :
    craftMessage t i true = if isSafe t i then some (encodeFrame i) else none := by
  cases h : isSafe t i <;> simp [craftMessage, declines, h]

/-- The lookup by port index is the lookup by Motor (R28, R58). -/
theorem periodMinAt_eq (t : Thresholds) (m : Bit) : periodMinAt t m = periodMin t (Motor.ofBit m) := by
  unfold periodMinAt Motor.ofBit
  split <;> rfl

theorem hightimeMaxAt_eq (t : Thresholds) (m : Bit) : hightimeMaxAt t m = hightimeMax t (Motor.ofBit m) := by
  unfold hightimeMaxAt Motor.ofBit
  split <;> rfl

theorem safePort_eq (t : Thresholds) (v : Inputs) : safePort t v = BitVec.ofBool (isSafe t (intentOf v)) := by
  unfold safePort isSafe
  rw [periodMinAt_eq, hightimeMaxAt_eq]
  rcases bit_cases v.buffer with h | h <;> simp [intentOf, Buffer.ofBit, h]

theorem framePorts_eq (v : Inputs) : framePorts v = encodeFrame (intentOf v) := by
  simp only [framePorts, encodeFrame, controlNibble_eq_zext8, controlBits, controlPorts, intentOf, Motor.toBit_ofBit,
    Enabled.toBit_ofBit, Buffer.toBit_ofBit, Direction.toBit_ofBit]

end Sys2Proof.Machine
end

