-- ==== Sys2Proof/Laws/PerInstr.lean ====
section
/-! SUPPORT. PerInstr: a statement about every instruction as syntax, one lemma per constructor. Family `OpcodeRow`: the word of an
instruction matches its own row of the opcode map and no other (30_encoding.md R47). -/

namespace Sys2Proof.Laws.OpcodeRow

/-- The opcode field of the instruction's word is its row's, and the mask and match of its row alone accept the word. -/
def Statement : Instr → Prop
  | .craftU i => (encode (.craftU i)).extractLsb' 20 1 = 0 ∧ encode (.craftU i) &&& opcodeMask = matchCraftU
  | .craftS i => (encode (.craftS i)).extractLsb' 20 1 = 1 ∧ encode (.craftS i) &&& opcodeMask ≠ matchCraftU

theorem craftU (i : Intent) : Statement (.craftU i) := by
  obtain ⟨hs, -⟩ := fields_of_requestWord _ _ _ _ _ _ (encode (.craftU i)) rfl
  exact ⟨hs, (and_opcodeMask_eq_matchCraftU _).2 hs⟩

theorem craftS (i : Intent) : Statement (.craftS i) := by
  obtain ⟨hs, -⟩ := fields_of_requestWord _ _ _ _ _ _ (encode (.craftS i)) rfl
  refine ⟨hs, fun h => ?_⟩
  have h0 := (and_opcodeMask_eq_matchCraftU _).1 h
  rw [hs] at h0
  change (1 : Bit) = 0 at h0
  exact absurd h0 (by decide)

end Sys2Proof.Laws.OpcodeRow
end

