-- ==== Sys2Proof/Laws/State.lean ====
section
/-! SUPPORT. State: one lemma per field per update, so that no proof unfolds a record update. -/

namespace Sys2Proof.Machine

variable (t : Thresholds) (i : Intent) (r : Option Frame) (s : State) (v : Inputs)

/-! ## `deliver` -/

@[simp] theorem deliver_inputs : (deliver t i r s).inputs = s.inputs := rfl
@[simp] theorem deliver_outputs : (deliver t i r s).outputs = outputsOf t i r := rfl
@[simp] theorem deliver_pending : (deliver t i r s).pending = s.pending := rfl
@[simp] theorem deliver_results : (deliver t i r s).results = s.results ++ [⟨isSafe t i, r⟩] := rfl

/-! ## `settle` -/

@[simp] theorem settle_inputs : (settle t s).inputs = s.inputs := rfl
@[simp] theorem settle_outputs : (settle t s).outputs = evalPorts t s.inputs := rfl
@[simp] theorem settle_pending : (settle t s).pending = s.pending := rfl
@[simp] theorem settle_results : (settle t s).results = s.results := rfl

/-! ## `advance`, in each of its two cases -/

theorem advance_nil (h : s.pending = []) : advance s = s := by simp [advance, h]

theorem advance_cons {rest : List Inputs} (h : s.pending = v :: rest) :
    advance s = { s with inputs := v, pending := rest } := by simp [advance, h]

@[simp] theorem advance_outputs : (advance s).outputs = s.outputs := by
  unfold advance
  split <;> rfl

@[simp] theorem advance_results : (advance s).results = s.results := by
  unfold advance
  split <;> rfl

@[simp] theorem advance_pending : (advance s).pending = s.pending.tail := by
  unfold advance
  split <;> simp_all

/-! ## `withFetchWord` and `load` -/

variable (n w : Nat)

@[simp] theorem withFetchWord_inputs : (s.withFetchWord n w).inputs = s.inputs := rfl
@[simp] theorem withFetchWord_outputs : (s.withFetchWord n w).outputs = s.outputs := rfl
@[simp] theorem withFetchWord_pending : (s.withFetchWord n w).pending = presentTableWord n w :: s.pending := rfl
@[simp] theorem withFetchWord_results : (s.withFetchWord n w).results = s.results := rfl

variable (p : List Line)

@[simp] theorem load_inputs : (load p s).inputs = s.inputs := rfl
@[simp] theorem load_outputs : (load p s).outputs = s.outputs := rfl
@[simp] theorem load_pending : (load p s).pending = p.map expand := rfl
@[simp] theorem load_results : (load p s).results = s.results := rfl

end Sys2Proof.Machine
end

