-- ==== Sys2Proof/Laws/Step.lean ====
section
/-! SUPPORT. Step: everything an instruction and a step can do, said once, and the induction over runs packaged once. -/

namespace Sys2Proof.Machine

/-- Both request forms are one delivery, of `craft_message` under the form's opcode bit (R69, R70). -/
theorem exec_eq_deliver (x : Instr) (s : State) :
    exec x s = .next (deliver thresholds x.intent (craftMessage thresholds x.intent (x.opcodeBit == 1)) s) := by
  cases x <;> rfl

/-- What a step does with a vector that presents a request. -/
theorem step_of_request {s : State} {v : Inputs} {rest : List Inputs} (h : s.pending = v :: rest) (hv : v.reqValid = 1) :
    step s = .next (deliver thresholds (intentOf v) (craftMessage thresholds (intentOf v) (v.enforceSafety == 1))
      { s with inputs := v, pending := rest }) := by
  have hf : fetch s = some (decodeRequest (requestOf v)) := by simp [fetch, h, hv]
  have hi : (decodeRequest (requestOf v)).intent = intentOf v := by
    rw [decodeRequest_requestOf]
    split <;> rfl
  have ho : (decodeRequest (requestOf v)).opcodeBit = v.enforceSafety := by
    rw [decodeRequest_requestOf]
    rcases bit_cases v.enforceSafety with h0 | h1
    · rw [h0]; rfl
    · rw [h1]; rfl
  simp only [step, hf, exec_eq_deliver, hi, ho, advance_cons s v h]

/-- What a step does with a vector that presents none. -/
theorem step_of_idle {s : State} {v : Inputs} {rest : List Inputs} (h : s.pending = v :: rest) (hv : v.reqValid = 0) :
    step s = .next (settle thresholds { s with inputs := v, pending := rest }) := by
  have hf : fetch s = none := by simp [fetch, h, hv]
  simp only [step, hf, advance_cons s v h]

/-- What a step does when the command source has nothing to present. -/
theorem step_of_hold {s : State} (h : s.pending = []) : step s = .next (settle thresholds s) := by
  have hf : fetch s = none := by simp [fetch, h]
  simp only [step, hf, advance_nil s h]

/-- Inversion: a step is one of the three. -/
theorem step_cases {s s' : State} (h : step s = .next s') :
    (s.pending = [] ∧ s' = settle thresholds s) ∨
    (∃ v rest, s.pending = v :: rest ∧ v.reqValid = 0 ∧ s' = settle thresholds { s with inputs := v, pending := rest }) ∨
    (∃ v rest, s.pending = v :: rest ∧ v.reqValid = 1 ∧
      s' = deliver thresholds (intentOf v) (craftMessage thresholds (intentOf v) (v.enforceSafety == 1))
        { s with inputs := v, pending := rest }) := by
  match hp : s.pending with
  | [] =>
    rw [step_of_hold hp] at h
    exact .inl ⟨rfl, (Host.Outcome.next.inj h).symm⟩
  | v :: rest =>
    rcases bit_cases v.reqValid with h0 | h1
    · rw [step_of_idle hp h0] at h
      exact .inr (.inl ⟨v, rest, rfl, h0, (Host.Outcome.next.inj h).symm⟩)
    · rw [step_of_request hp h1] at h
      exact .inr (.inr ⟨v, rest, rfl, h1, (Host.Outcome.next.inj h).symm⟩)

/-- The next state of any step, as one of the three. -/
def nextState (s : State) : State :=
  match s.pending with
  | [] => settle thresholds s
  | v :: rest =>
    if v.reqValid = 1 then
      deliver thresholds (intentOf v) (craftMessage thresholds (intentOf v) (v.enforceSafety == 1))
        { s with inputs := v, pending := rest }
    else settle thresholds { s with inputs := v, pending := rest }

theorem step_eq_nextState (s : State) : step s = .next (nextState s) := by
  unfold nextState
  split
  · exact step_of_hold (by assumption)
  · split
    · exact step_of_request (by assumption) (by assumption)
    · rename_i v _ _ h1
      exact step_of_idle (by assumption) ((bit_cases v.reqValid).resolve_right h1)

/-- A run of one more step starts with that step. -/
theorem run_succ_of_step {s u : State} (h : step s = .next u) (n : Nat) : core.run (n + 1) s = core.run n u := by
  have hc : core.step s = .next u := h
  simp only [Host.Core.run, hc]

/-- Induction over a run: what every step keeps, every run keeps. -/
theorem run_keeps {P : State → Prop} (hstep : ∀ s s', P s → step s = .next s' → P s') :
    ∀ n s s', P s → core.run n s = .next s' → P s'
  | 0, s, s', hs, h => by
    rw [← Host.Outcome.next.inj h]
    exact hs
  | n + 1, s, s', hs, h => by
    rw [run_succ_of_step (step_eq_nextState s)] at h
    exact run_keeps hstep n _ s' (hstep s _ hs (step_eq_nextState s)) h

end Sys2Proof.Machine
end

