-- ==== Sys2Proof/Laws/Written.lean ====
section
/-! SUPPORT. Written: each operand of a written line is split off and read back on its own (30_encoding.md R52). -/

namespace Sys2Proof.Machine

theorem splitFirst_append {stop : Char} {w : List Char} (h : stop ∉ w) (rest : List Char) :
    splitFirst stop (w ++ stop :: rest) = (w, rest) := by
  induction w with
  | nil => simp [splitFirst]
  | cons c cs ih =>
    rw [List.mem_cons, not_or] at h
    simp [splitFirst, Ne.symm h.1, ih h.2]

theorem splitOperand_append {w : List Char} (h : ',' ∉ w) (rest : List Char) :
    splitOperand (w ++ ',' :: ' ' :: rest) = some (w, rest) := by
  simp only [splitOperand, splitFirst_append h]

@[simp] theorem readMnemonic_write (m : Mnemonic) : readMnemonic m.write = some m := by cases m <;> rfl
@[simp] theorem readMotor_write (m : Motor) : readMotor (writeMotor m) = some m := by cases m <;> rfl
@[simp] theorem readEnabled_write (e : Enabled) : readEnabled (writeEnabled e) = some e := by cases e <;> rfl
@[simp] theorem readDirection_write (d : Direction) : readDirection (writeDirection d) = some d := by cases d <;> rfl
@[simp] theorem readBuffer_write (b : Buffer) : readBuffer (writeBuffer b) = some b := by cases b <;> rfl

theorem space_notin_mnemonic (m : Mnemonic) : ' ' ∉ m.write := by cases m <;> decide
theorem comma_notin_motor (m : Motor) : ',' ∉ writeMotor m := by cases m <;> decide
theorem comma_notin_enabled (e : Enabled) : ',' ∉ writeEnabled e := by cases e <;> decide
theorem comma_notin_direction (d : Direction) : ',' ∉ writeDirection d := by cases d <;> decide
theorem comma_notin_buffer (b : Buffer) : ',' ∉ writeBuffer b := by cases b <;> decide

/-- A hexadecimal digit is read back. -/
theorem digitValue_writeDigit : ∀ n < 16, digitValue 16 (writeDigit n) = some n := by decide

end Sys2Proof.Machine
end

