-- ==== Sys2Proof/Tests/Slice0.lean ====
section
/-!
SUPPORT. Slice0: words written out from the spec's encoding and its worked examples (95_test_vectors.md), the well-formedness smoke
tests, and for every obligation with hypotheses a concrete case that meets them.
Every expected value is the spec's own, from the place named.
-/

namespace Sys2Proof.Tests

open Sys2Proof.Machine

/-! ## Well-formedness: an ill-formed term for each check -/

/-- R42: 0x1FFFFF is the last request word. -/
theorem test_requestWord_bounds : isRequestWord 0x1FFFFF = true ∧ isRequestWord 0x200000 = false := by decide

/-- R51: a frame is three bytes, no fewer and no more. -/
theorem test_frameLength : isFrameLength [0x4A, 0x00, 0xC8] = true ∧ isFrameLength [0x4A, 0x00] = false ∧
    isFrameLength [0x4A, 0x00, 0xC8, 0x00] = false := by decide

/-! ## Decoding: words bit by bit, `s d b e m` and then the magnitude (R42) -/

/-- R52: `CRAFT.S A, EN, FWD, PER, 200` has the request word 0x1A00C8. -/
theorem test_decode_craftS : decodeRequest 0b1_1_0_1_0_0000000011001000 =
    .craftS ⟨.A, .enabled, .forward, .period, 200⟩ := by decide

/-- 2.4: `CRAFT.U A, EN, FWD, HT, 60` has the request word 0x0E003C. -/
theorem test_decode_craftU : decodeRequest 0b0_1_1_1_0_0000000000111100 =
    .craftU ⟨.A, .enabled, .forward, .hightime, 60⟩ := by decide

/-- Each one-bit field alone, with the polarity of R43. -/
theorem test_decode_single_bits :
    decodeRequest 0b0_0_0_0_1_0000000000000000 = .craftU ⟨.B, .disabled, .backward, .period, 0⟩ ∧
    decodeRequest 0b0_0_0_1_0_0000000000000000 = .craftU ⟨.A, .enabled, .backward, .period, 0⟩ ∧
    decodeRequest 0b0_0_1_0_0_0000000000000000 = .craftU ⟨.A, .disabled, .backward, .hightime, 0⟩ ∧
    decodeRequest 0b0_1_0_0_0_0000000000000000 = .craftU ⟨.A, .disabled, .forward, .period, 0⟩ ∧
    decodeRequest 0b1_0_0_0_0_1000000000000001 = .craftS ⟨.A, .disabled, .backward, .period, 0x8001⟩ := by decide

/-- The same word as bytes (log 5) and as the table numbers it; too few bytes and a bit above 20 are rejected by name. -/
theorem test_decode_bytes : decodeBytes [0xC8, 0x00, 0x1A, 0xFF] =
      .ok (.craftS ⟨.A, .enabled, .forward, .period, 200⟩, [0xFF]) ∧
    decodeBytes [0xC8, 0x00, 0x3A] = .error .notARequestWord ∧ decodeBytes [0xC8, 0x00] = .error .truncated := by decide

/-- 95, 3.1 row 2 and 3.4 row 8: `CRAFT.S A, DIS, FWD, PER, 0xFFFF` is 0x18FFFF. -/
theorem test_encode : encode (.craftS ⟨.A, .disabled, .forward, .period, 0xFFFF⟩) = 0x18FFFF ∧
    encodeBytes (.craftS ⟨.A, .disabled, .forward, .period, 0xFFFF⟩) = [0xFF, 0xFF, 0x18] := by decide

/-! ## The frame and the predicate (95, 2.1 to 2.5) -/

/-- 2.2: rows that tell the nibble-to-mask pairing and the byte order apart. -/
theorem test_encodeFrame : encodeFrame ⟨.A, .enabled, .forward, .period, 0x1234⟩ = ⟨0x6A, 0x12, 0x34⟩ ∧
    encodeFrame ⟨.A, .enabled, .forward, .period, 0x4321⟩ = ⟨0xCA, 0x43, 0x21⟩ ∧
    encodeFrame ⟨.A, .enabled, .forward, .period, 0xFF00⟩ = ⟨0xCA, 0xFF, 0x00⟩ ∧
    encodeFrame ⟨.B, .enabled, .backward, .period, 0x1234⟩ = ⟨0xD3, 0x12, 0x34⟩ := by decide

/-- 2.3: all sixteen control nibbles with magnitude 0, read down the table. -/
theorem test_control_nibbles :
    ((List.range 16).map fun c => (encodeFrame (intentOfRequest (BitVec.ofNat 21 (c * 65536)))).b0) =
      [0x60, 0x51, 0x82, 0x73, 0xA4, 0x95, 0xC6, 0xB7, 0xE8, 0xD9, 0x0A, 0xFB, 0x2C, 0x1D, 0x4E, 0x3F] := by decide

/-- 2.1: the four boundaries, and bit 15, which is no sign. -/
theorem test_isSafe : ∀ m ∈ [Motor.A, Motor.B],
    isSafe thresholds ⟨m, .disabled, .backward, .period, 149⟩ = false ∧
    isSafe thresholds ⟨m, .disabled, .backward, .period, 150⟩ = true ∧
    isSafe thresholds ⟨m, .disabled, .backward, .hightime, 50⟩ = true ∧
    isSafe thresholds ⟨m, .disabled, .backward, .hightime, 51⟩ = false ∧
    isSafe thresholds ⟨m, .disabled, .backward, .period, 0x8000⟩ = true ∧
    isSafe thresholds ⟨m, .disabled, .backward, .hightime, 0x8000⟩ = false := by decide

/-- R58: a motor's own thresholds are used, seen with four different ones. -/
theorem test_thresholds_by_motor :
    isSafe ⟨10, 20, 30, 40⟩ ⟨.A, .enabled, .forward, .period, 10⟩ = true ∧
    isSafe ⟨10, 20, 30, 40⟩ ⟨.B, .enabled, .forward, .period, 10⟩ = false ∧
    isSafe ⟨10, 20, 30, 40⟩ ⟨.A, .enabled, .forward, .hightime, 40⟩ = false ∧
    isSafe ⟨10, 20, 30, 40⟩ ⟨.B, .enabled, .forward, .hightime, 40⟩ = true := by decide

/-- 2.5: valid and invalid frames. -/
theorem test_validFrame : [⟨0x4A, 0, 0xC8⟩, ⟨0, 0, 0⟩, ⟨0x0A, 0, 0⟩, ⟨0x5A, 0, 0xC8⟩, ⟨0x4B, 0, 0xC8⟩, ⟨0x4A, 0, 0xC9⟩,
    ⟨0x4A, 0x01, 0xC8⟩, ⟨0xFF, 0xFF, 0xFF⟩].map validFrame = [true, false, true, false, false, false, false, false] := by
  decide

/-! ## One step (95, 2.4) -/

/-- The reset state with one vector to present. -/
def presenting (v : Inputs) : State := { State.reset with pending := [v] }

/-- The outputs after one step on a presented vector. -/
def shown (v : Inputs) : Outputs :=
  match step (presenting v) with
  | .next s => s.outputs
  | .fault _ => Outputs.reset
  | .refused _ => Outputs.reset

/-- Scenario 1 at the ports, checked and unchecked. -/
theorem test_step_scenario1 : shown (driveWord 0x1A00C8 1) = ⟨1, 1, 0x4A, 0x00, 0xC8⟩ ∧
    shown (driveWord 0x0A00C8 1) = ⟨1, 1, 0x4A, 0x00, 0xC8⟩ := by decide

/-- Scenario 3: the decline, and the bypass with `safe` = 0. -/
theorem test_step_scenario3 : shown (driveWord 0x1E003C 1) = ⟨0, 0, 0x00, 0x00, 0x00⟩ ∧
    shown (driveWord 0x0E003C 1) = ⟨0, 1, 0xFE, 0x00, 0x3C⟩ := by decide

/-- The two rows of 2.4 with `req_valid` = 0: no frame, `safe` still driven. -/
theorem test_step_no_request : shown (driveWord 0x1A00C8 0) = ⟨1, 0, 0x00, 0x00, 0x00⟩ ∧
    shown (driveWord 0x0E003C 0) = ⟨0, 0, 0x00, 0x00, 0x00⟩ := by decide

/-- The first step after reset runs a fetched word (log 6): scenario 2, whose frame is F9 FF FF. -/
theorem test_fetchWord : ∃ s, step (State.reset.withFetchWord 24 0x19FFFF) = .next s ∧
    s.outputs = ⟨1, 1, 0xF9, 0xFF, 0xFF⟩ ∧ s.results = [⟨true, some ⟨0xF9, 0xFF, 0xFF⟩⟩] := ⟨_, rfl, by decide, by decide⟩

/-- Program 2 of 3.2: `[1E 00 32, FE 00 3C]` reach the stream and the declined request does not. -/
theorem test_byteStream : byteStream ([driveWord 0x1E003C 1, driveWord 0x1E0032 1, driveWord 0x0E003C 1].filterMap
    (resultOf thresholds)) = [0x1E, 0x00, 0x32, 0xFE, 0x00, 0x3C] := by decide

/-- R52's own line, with a decimal and with a hexadecimal magnitude; a lower-case keyword is no keyword. -/
theorem test_readLine : (readLine "CRAFT.S A, EN, FWD, PER, 200".toList).map expand = some (driveWord 0x1A00C8 1) ∧
    (readLine "ENCODE B, DIS, FWD, PER, 0xFFFF".toList).map expand = some (driveWord 0x09FFFF 1) ∧
    readLine "CRAFT.S a, EN, FWD, PER, 200".toList = none ∧ readLine "CRAFT.S A, EN, FWD, PER, 65536".toList = none := by
  decide

/-! ## Witnesses: for each obligation with hypotheses, a case that meets them all -/

/-- Scenario 1's Intent. -/
def run200 : Intent := ⟨.A, .enabled, .forward, .period, 200⟩

/-- Scenario 3's Intent, unsafe. -/
def pulse60 : Intent := ⟨.A, .enabled, .forward, .hightime, 60⟩

theorem witness_OpcodeBitSelectsTheForm : (∀ k < 20, (0x1A00C8 : ReqWord).getLsbD k = (0x0A00C8 : ReqWord).getLsbD k) ∧
    (0x1A00C8 : ReqWord) ≠ 0x0A00C8 := by decide

theorem witness_OneBitFieldEncodings : true = decide ((Instr.craftU run200).intent.enabled = .enabled) ∧
    false = decide ((Instr.craftU run200).intent.motor = .B) ∧ false = decide ((Instr.craftU run200).intent.buffer = .hightime) ∧
    true = decide ((Instr.craftU run200).intent.direction = .forward) := by decide

/-- The boundary of both clauses on the third byte: 31 decodes and 32 is rejected. -/
theorem witness_DecoderRejectsByName : (31 : Byte).toNat < 32 ∧ 32 ≤ (32 : Byte).toNat ∧
    decodeBytes [0xFF, 0xFF, 31] = .ok (.craftS ⟨.B, .enabled, .forward, .hightime, 0xFFFF⟩, []) ∧
    decodeBytes [0, 0, 32] = .error .notARequestWord := by decide

theorem witness_PayloadIsTheMagnitudeUnchanged : 7 < 8 ∧ run200.magnitude = 200 := by decide

theorem witness_CountSumsTheFiveMaskedNibbles : (3 : Byte) = controlNibble run200 ^^^ 0x09 ∧
    4 = zext8 (highNibble (highByte run200.magnitude)) ^^^ 0x04 ∧ 13 = zext8 (lowNibble (highByte run200.magnitude)) ^^^ 0x0D ∧
    14 = zext8 (highNibble (lowByte run200.magnitude)) ^^^ 0x02 ∧ 2 = zext8 (lowNibble (lowByte run200.magnitude)) ^^^ 0x0A ∧
    [2, 14, 13, 4, 3].Perm [(3 : Byte), 4, 13, 14, 2] := by decide

theorem witness_ChecksumIsTheLowNibbleOfCount : count 0x0A 0x00 0xC8 = 0x24 := by decide

theorem witness_ControlByteIsChecksumAboveControl :
    4 = chk (controlNibble run200) (highByte run200.magnitude) (lowByte run200.magnitude) ∧ controlNibble run200 = 0x0A := by
  decide

theorem witness_ControlByteBitByBit : 0x4A = (encodeFrame run200).b0 ∧ 3 < 4 := by decide

theorem witness_EncodeFollowsItsPseudocode :
    0x0A = zext8 (run200.direction.toBit ++ run200.buffer.toBit ++ run200.enabled.toBit ++ run200.motor.toBit) ∧
    0x00 = run200.magnitude.extractLsb' 8 8 ∧ 0xC8 = run200.magnitude.extractLsb' 0 8 ∧
    0x24 = (0x0A ^^^ 0x09) + (zext8 ((0x00 : Byte).extractLsb' 4 4) ^^^ 0x04) + (zext8 ((0x00 : Byte).extractLsb' 0 4) ^^^ 0x0D) +
      (zext8 ((0xC8 : Byte).extractLsb' 4 4) ^^^ 0x02) + (zext8 ((0xC8 : Byte).extractLsb' 0 4) ^^^ 0x0A) ∧
    4 = (0x24 : Byte).extractLsb' 0 4 := by decide

theorem witness_CountNeverWraps : 36 = (controlNibble run200).toNat.xor 0x9 + (run200.magnitude.toNat / 4096).xor 0x4 +
    (run200.magnitude.toNat / 256 % 16).xor 0xD + (run200.magnitude.toNat / 16 % 16).xor 0x2 +
    (run200.magnitude.toNat % 16).xor 0xA := by decide

theorem witness_EncodeIsInjective : encodeFrame run200 = encodeFrame run200 := rfl

theorem witness_ValidFramesAreTheEncodedIntents : validFrame ⟨0x4A, 0x00, 0xC8⟩ = true ∧
    encodeFrame run200 = ⟨0x4A, 0x00, 0xC8⟩ := by decide

/-- The checksum nibble, at the upper end of the range of positions. -/
theorem witness_OneChangedNibbleIsDetected : validFrame (frameOf24 0x4A00C8) = true ∧ 5 < 6 ∧ (1 : Nibble) ≠ 0 ∧
    validFrame (frameOf24 0x5A00C8) = false := by decide

theorem witness_IsSafeIsTheThresholdComparison : run200.buffer = .period ∧ pulse60.buffer = .hightime := by decide

/-- Both comparisons at the threshold itself. -/
theorem witness_PeriodRuleIsAMinimum : (⟨.B, .disabled, .forward, .period, 150⟩ : Intent).magnitude =
    periodMin thresholds .B := by decide

theorem witness_HightimeRuleIsAMaximum : (⟨.B, .disabled, .forward, .hightime, 50⟩ : Intent).magnitude =
    hightimeMax thresholds .B := by decide

theorem witness_ExactlyOneRuleApplies : run200.buffer = .period ∧ pulse60.buffer = .hightime := by decide

/-- A stop under the most demanding thresholds there can be. -/
theorem witness_StopIsNeverDeclined : (⟨.B, .disabled, .forward, .period, 0xFFFF⟩ : Intent).magnitude = 0xFFFF ∧
    isSafe ⟨0xFFFF, 0xFFFF, 0, 0⟩ ⟨.B, .disabled, .forward, .period, 0xFFFF⟩ = true := by decide

/-- One vector for each row of R71's table. -/
theorem witness_PortsAgreeWithTheFunctions : (driveWord 0x1A00C8 0).reqValid = 0 ∧ (driveWord 0x1A00C8 1).reqValid = 1 ∧
    craftMessage thresholds (intentOf (driveWord 0x1A00C8 1)) ((driveWord 0x1A00C8 1).enforceSafety == 1) =
      some ⟨0x4A, 0x00, 0xC8⟩ ∧ (evalPorts thresholds (driveWord 0x1E003C 1)).frameValid = 0 := by decide

theorem witness_EnforceSafetyOnlySuppresses : (driveWord 0x1A00C8 1).reqValid = 1 ∧
    (evalPorts thresholds (driveWord 0x1A00C8 1)).frameValid = 1 ∧
    (evalPorts thresholds (driveWord 0x0A00C8 1)).frameValid = 1 ∧
    (evalPorts thresholds { driveWord 0x0A00C8 1 with enforceSafety := 1 }).frameValid = 1 := by decide

theorem witness_CheckedAndUncheckedAgree : isSafe thresholds run200 = true ∧
    craftMessage thresholds run200 true = some ⟨0x4A, 0x00, 0xC8⟩ ∧
    isSafe ⟨200, 0, 0, 0⟩ run200 = isSafe thresholds run200 ∧
    ∃ a b, exec (.craftS run200) State.reset = .next a ∧ exec (.craftS run200) (presenting (driveWord 0x1E003C 1)) = .next b :=
  ⟨by decide, by decide, by decide, _, _, rfl, rfl⟩

theorem witness_PresentationCarriesTheRequest : (driveWord 0x1E003C 1).reqValid = 1 := by decide

theorem witness_CraftSProducesTheFrameIffSafe : isSafe thresholds run200 = true ∧ isSafe thresholds pulse60 = false := by decide

theorem witness_RequestFormsChangeOnlyTheirResult : ∃ s' t', exec (.craftU pulse60) State.reset = .next s' ∧
    exec (.craftU pulse60) (presenting (driveWord 0x1A00C8 1)) = .next t' := ⟨_, _, rfl, rfl⟩

theorem witness_OnlyTwoOutcomes : (∃ r ∈ ([⟨false, none⟩] : List Result), r.outcome = .declined) ∧
    (∃ r ∈ ([⟨true, some ⟨0x4A, 0x00, 0xC8⟩⟩] : List Result), r.outcome = .frame ⟨0x4A, 0x00, 0xC8⟩) ∧
    craftMessage thresholds pulse60 true = none ∧ craftMessage thresholds run200 true = some ⟨0x4A, 0x00, 0xC8⟩ := by decide

theorem witness_StepRunsThePresentedRequest : (presenting (driveWord 0x1A00C8 1)).pending = driveWord 0x1A00C8 1 :: [] ∧
    (driveWord 0x1A00C8 1).reqValid = 1 := by decide

theorem witness_FetchWordIsRunByTheNextStep : 0x1FFFFF < 0x200000 % 2 ^ 24 := by decide

/-- The states of the run theorems: from reset, two different requests to present and then a third vector with none. -/
def programme : State := { State.reset with
  pending := [driveWord 0x1A00C8 1, driveWord 0x1E003C 1, driveWord 0x1E0032 0] }

theorem witness_StepKeepsTheInvariant : Inv thresholds programme ∧ ∃ s', step programme = .next s' :=
  ⟨⟨by unfold Settled; decide, (fun _ h => nomatch h)⟩, _, rfl⟩

theorem witness_OutputsWhileNoRequestIsPresented : (driveWord 0x1A00C8 0).reqValid = 0 ∧ State.reset.pending = [] ∧
    State.reset.inputs.reqValid = 0 ∧ (∃ s', step State.reset = .next s') ∧
    ∃ s', step { State.reset with pending := driveWord 0x1A00C8 0 :: State.reset.pending } = .next s' :=
  ⟨by decide, rfl, rfl, ⟨_, rfl⟩, _, rfl⟩

/-- A held request that shows a frame. -/
theorem witness_HeldRequestIsOneTransaction : ∃ s, step (presenting (driveWord 0x1A00C8 1)) = .next s ∧ s.pending = [] ∧
    s.outputs = evalPorts thresholds s.inputs ∧ s.outputs.frameValid = 1 ∧ ∃ s', step s = .next s' :=
  ⟨_, rfl, rfl, by decide, by decide, _, rfl⟩

/-- The same vector after different histories. -/
theorem witness_EarlierTransactionsLeaveNoTrace : ∃ s t s' t', step programme = .next s ∧
    s.pending = driveWord 0x1E003C 1 :: [driveWord 0x1E0032 0] ∧ t = presenting (driveWord 0x1E003C 1) ∧
    t.pending = driveWord 0x1E003C 1 :: [] ∧ s.results ≠ t.results ∧ step s = .next s' ∧ step t = .next t' :=
  ⟨_, _, _, _, rfl, by decide, rfl, by decide, by decide, rfl, rfl⟩

theorem witness_RunResultsAreTheResultsOfEachRequest : programme.pending.getLast? = some (driveWord 0x1E0032 0) := by decide

theorem witness_ReorderedRequestsGiveReorderedResults : ∃ s' t', programme.results = [] ∧
    programme.pending.Perm programme.pending.reverse ∧ core.run programme.pending.length programme = .next s' ∧
    core.run 3 { programme with pending := programme.pending.reverse } = .next t' ∧ s'.results ≠ t'.results :=
  ⟨_, _, rfl, programme.pending.reverse_perm.symm, rfl, rfl, by decide⟩

theorem witness_EnforcedRunHandsOverOnlySafeFrames : Enforced programme ∧ OnlySafeFrames thresholds programme.results ∧
    ∃ s', core.run 3 programme = .next s' ∧ s'.results = [⟨true, some ⟨0x4A, 0x00, 0xC8⟩⟩, ⟨false, none⟩] :=
  ⟨by unfold Enforced; decide, (fun _ h => nomatch h), _, rfl, by decide⟩

theorem witness_ByteStreamCutsBackIntoFrames : ∃ s', programme.results = [] ∧
    core.run programme.pending.length programme = .next s' ∧ byteStream s'.results = [0x4A, 0x00, 0xC8] :=
  ⟨_, rfl, rfl, by decide⟩

theorem witness_DeclineLeavesNothingBehind : isSafe thresholds pulse60 = false ∧
    ∃ a b, programme.pending = driveWord 0x1A00C8 1 :: programme.pending.tail ∧
      core.run 2 { programme with pending := presentation (.craftS pulse60) :: programme.pending } = .next a ∧
      core.run 1 programme = .next b := ⟨by decide, _, _, by decide, rfl, rfl⟩

theorem witness_DecimalMagnitudesAreRead : readMagnitude (Nat.toDigits 10 65535) = some 0xFFFF ∧
    readMagnitude (Nat.toDigits 10 65536) = none := by decide

end Sys2Proof.Tests
end

