-- ==== Sys2Proof/Proofs/PresentedRequest.lean ====
section
/-! The step that presents a request: what the command source's vector fetches, and what running it means
(00_scope.md R5). -/

namespace Sys2Proof.Machine

/-- R22, R40: a vector with the strobe raised carries a request, the one the decoder reads from its ports. -/
theorem fetch_of_request {s : State} {v : Inputs} {rest : List Inputs} (h : s.pending = v :: rest)
    (hv : v.reqValid = 1) : fetch s = some (decodeRequest (requestOf v)) := by
  simp only [fetch, h, if_pos hv]

theorem step_of_fetch {s : State} {x : Instr} (h : fetch s = some x) : step s = exec x (advance s) := by
  simp only [step, h]

/-- Settles O39: the step fetches the vector's request and runs it in the advanced state. -/
theorem stepRunsThePresentedRequest : Obligations.StepRunsThePresentedRequest := by
  unfold Obligations.StepRunsThePresentedRequest
  intro s v rest h hv
  calc step s = exec (decodeRequest (requestOf v)) (advance s) := step_of_fetch (fetch_of_request h hv)
    _ = exec (decodeRequest (requestOf v)) { s with inputs := v, pending := rest } := by rw [advance_cons s v h]

end Sys2Proof.Machine
end

section
/-! The ports as the functions over the Intent (00_scope.md R12, 41_frame_encoder.md R71): the gate, and all five output
ports at once. -/

namespace Sys2Proof.Machine

theorem evalPorts_safe (t : Thresholds) (v : Inputs) : (evalPorts t v).safe = BitVec.ofBool (isSafe t (intentOf v)) :=
  safePort_eq t v

/-- R24: the gate of the bits `req_valid`, `enforce_safety` and `safe`, read as a condition. -/
theorem gate_eq_one_iff : ∀ r e s : Bit, r &&& (~~~ e ||| s) = 1 ↔ r = 1 ∧ (e = 0 ∨ s = 1) := by decide

theorem evalPorts_frameValid_eq_one_iff (t : Thresholds) (v : Inputs) :
    (evalPorts t v).frameValid = 1 ↔ v.reqValid = 1 ∧ (v.enforceSafety = 0 ∨ isSafe t (intentOf v) = true) := by
  have hgate := gate_eq_one_iff v.reqValid v.enforceSafety (evalPorts t v).safe
  rw [evalPorts_safe, ofBool_eq_one] at hgate
  rw [← hgate, ← evalPorts_safe]
  rfl

/-- The frame the gate lets through (R25), `none` when the frame ports are driven to zeros. -/
def gatedFrame (t : Thresholds) (v : Inputs) : Option Frame :=
  if (evalPorts t v).frameValid = 1 then some (encodeFrame (intentOf v)) else none

theorem gatedFrame_of_valid {t : Thresholds} {v : Inputs} (h : (evalPorts t v).frameValid = 1) :
    gatedFrame t v = some (encodeFrame (intentOf v)) := if_pos h

theorem gatedFrame_of_not_valid {t : Thresholds} {v : Inputs} (h : ¬ (evalPorts t v).frameValid = 1) :
    gatedFrame t v = none := if_neg h

/-- R71: the block shows on its ports what `outputsOf` makes of the gated frame. -/
theorem evalPorts_eq_outputsOf (t : Thresholds) (v : Inputs) :
    evalPorts t v = outputsOf t (intentOf v) (gatedFrame t v) := by
  have hsafe : safePort t v = BitVec.ofBool (isSafe t (intentOf v)) := safePort_eq t v
  rcases bit_cases (frameValidPort t v) with h0 | h1
  · have hnone : gatedFrame t v = none := gatedFrame_of_not_valid (by simp [evalPorts, h0])
    simp [evalPorts, outputsOf, gatePort, hnone, hsafe, h0]
  · have hsome : gatedFrame t v = some (encodeFrame (intentOf v)) := gatedFrame_of_valid h1
    simp [evalPorts, outputsOf, gatePort, hsome, hsafe, h1, framePorts_eq]

/-- R70, R71: for a presented request the gate is `craft_message`. -/
theorem gatedFrame_of_request (t : Thresholds) {v : Inputs} (hv : v.reqValid = 1) :
    gatedFrame t v = craftMessage t (intentOf v) (v.enforceSafety == 1) := by
  unfold gatedFrame
  simp only [evalPorts_frameValid_eq_one_iff, hv, true_and]
  rcases bit_cases v.enforceSafety with h0 | h1
  · simp [h0]
  · simp [h1, craftMessage_true]

/-! ## The statements about the ports -/

/-- Settles O30: the equation is R71's own, its condition is read off the gate. -/
theorem frameValidEquation : Obligations.FrameValidEquation := by
  unfold Obligations.FrameValidEquation
  exact fun t v => ⟨rfl, evalPorts_frameValid_eq_one_iff t v⟩

/-- Settles O31, in the two cases of the gate. -/
theorem framePortsHoldTheFrameOrZero : Obligations.FramePortsHoldTheFrameOrZero := by
  unfold Obligations.FramePortsHoldTheFrameOrZero
  refine ⟨fun t v => ?_, by decide⟩
  split
  case isTrue h =>
    rw [evalPorts_eq_outputsOf, gatedFrame_of_valid h]
    rfl
  case isFalse h =>
    rw [evalPorts_eq_outputsOf, gatedFrame_of_not_valid h]
    rfl

/-- Settles O32: `enforce_safety` is no part of the Intent on the ports, so it reaches the outputs through the gate alone. -/
theorem enforceSafetyOnlySuppresses : Obligations.EnforceSafetyOnlySuppresses := by
  unfold Obligations.EnforceSafetyOnlySuppresses
  intro t v s
  refine ⟨rfl, fun hs hv => ?_, fun hreq => ?_, fun hframe => ?_⟩
  · rw [evalPorts_eq_outputsOf t v, evalPorts_eq_outputsOf, gatedFrame_of_valid hv, gatedFrame_of_valid hs]
    rfl
  · exact (evalPorts_frameValid_eq_one_iff _ _).2 ⟨hreq, .inl rfl⟩
  · obtain ⟨-, hoff | hsafe⟩ := (evalPorts_frameValid_eq_one_iff _ _).1 hframe
    · exact absurd hoff (show (1 : Bit) ≠ 0 by decide)
    · exact hsafe

end Sys2Proof.Machine
end

section
/-! Which results a request can have (30_encoding.md R49, 41_frame_encoder.md R76): the encoder's frames are valid and give
their Intent back, so every result of `craft_message` is sound. -/

namespace Sys2Proof.Machine

/-- R49: the checksum nibble of an encoded frame is that of the rest of it. -/
theorem validFrame_encodeFrame (i : Intent) : validFrame (encodeFrame i) = true := by
  simp [validFrame_iff, encodeFrame_eq, controlNibble_eq_zext8]

theorem extractLsb'_of_nibbles (k n : Nibble) {j : Nat} (hj : j < 4) :
    (k ++ n : Byte).extractLsb' j 1 = n.extractLsb' j 1 :=
  BitVec.extractLsb'_append_eq_of_add_le (by omega)

/-- R76: each field of the Intent stands in the frame. -/
theorem readBack_encodeFrame (i : Intent) : readBack (encodeFrame i) = i := by
  obtain ⟨hm, he, hb, hd⟩ := controlBits_getLsbD i
  simp [readBack, encodeFrame_eq, extractLsb'_of_nibbles, hm, he, hb, hd]

theorem craftMessage_sound (t : Thresholds) (i : Intent) (enforce : Bool) :
    Result.Sound t ⟨isSafe t i, craftMessage t i enforce⟩ := by
  have hframe : Result.Sound t ⟨isSafe t i, some (encodeFrame i)⟩ :=
    ⟨validFrame_encodeFrame i, by rw [readBack_encodeFrame]⟩
  cases enforce with
  | false => exact hframe
  | true =>
    rw [craftMessage_true]
    split
    case isTrue => exact hframe
    case isFalse hunsafe => exact Bool.eq_false_of_not_eq_true hunsafe

theorem resultOf_of_request (t : Thresholds) {v : Inputs} (hv : v.reqValid = 1) :
    resultOf t v = some ⟨isSafe t (intentOf v), craftMessage t (intentOf v) (v.enforceSafety == 1)⟩ := if_pos hv

theorem resultOf_of_idle (t : Thresholds) {v : Inputs} (hv : v.reqValid = 0) : resultOf t v = none :=
  if_neg (by simp [hv])

/-- R49, R80: what a vector adds to the record is sound. -/
theorem sound_of_resultOf {t : Thresholds} {v : Inputs} {r : Result} (h : resultOf t v = some r) : r.Sound t := by
  rcases bit_cases v.reqValid with h0 | h1
  · rw [resultOf_of_idle t h0] at h
    cases h
  · rw [resultOf_of_request t h1] at h
    cases h
    exact craftMessage_sound _ _ _

end Sys2Proof.Machine
end

section
/-! What a step shows and records (10_state.md R13, 20_memory.md R38): the ports function of the vector and the vector's own
result, and so the invariant. -/

namespace Sys2Proof.Machine

/-- R13, R38: the step of a presented vector, request or not, in one equation. Of the state it meets it uses the earlier
results alone, which it keeps. -/
theorem step_of_presented {s : State} {v : Inputs} {rest : List Inputs} (h : s.pending = v :: rest) :
    step s = .next {
      inputs  := v
      outputs := evalPorts thresholds v
      pending := rest
      results := s.results ++ (resultOf thresholds v).toList } := by
  rcases bit_cases v.reqValid with h0 | h1
  · rw [step_of_idle h h0, resultOf_of_idle thresholds h0, Option.toList_none, List.append_nil]
    rfl
  · rw [step_of_request h h1, resultOf_of_request thresholds h1, evalPorts_eq_outputsOf, gatedFrame_of_request _ h1]
    rfl

/-- R13: after a step from any state the outputs are those of the inputs. -/
theorem settled_of_step {s s' : State} (h : step s = .next s') : Settled thresholds s' := by
  match hp : s.pending with
  | [] =>
    rw [step_of_hold hp] at h
    cases h
    rfl
  | v :: rest =>
    rw [step_of_presented hp] at h
    cases h
    rfl

/-- A step records nothing but the result of a vector. -/
theorem mem_results_of_step {s s' : State} (h : step s = .next s') {r : Result} (hr : r ∈ s'.results) :
    r ∈ s.results ∨ ∃ v, resultOf thresholds v = some r := by
  match hp : s.pending with
  | [] =>
    rw [step_of_hold hp] at h
    cases h
    exact .inl hr
  | v :: rest =>
    rw [step_of_presented hp] at h
    cases h
    rw [List.mem_append, Option.mem_toList] at hr
    exact hr.imp_right fun hv => ⟨v, hv⟩

/-- Settles O42: the outputs follow the inputs after any step, and a result is an earlier one or that of a vector. -/
theorem stepKeepsTheInvariant : Obligations.StepKeepsTheInvariant := by
  unfold Obligations.StepKeepsTheInvariant
  refine ⟨fun s s' hinv h => ⟨settled_of_step h, fun r hr => ?_⟩, fun s s' h => settled_of_step h⟩
  obtain ⟨-, hsound⟩ := hinv
  obtain hold | ⟨v, hnew⟩ := mem_results_of_step h hr
  · exact hsound r hold
  · exact sound_of_resultOf hnew

/-- Settles O46: both steps are the one equation of the vector they present. -/
theorem earlierTransactionsLeaveNoTrace : Obligations.EarlierTransactionsLeaveNoTrace := by
  unfold Obligations.EarlierTransactionsLeaveNoTrace
  intro s t s' t' v ps qs hs ht hstep htep
  rw [step_of_presented hs] at hstep
  rw [step_of_presented ht] at htep
  cases hstep
  cases htep
  simp

/-- What an instruction leaves behind when it answers: its delivery (R69, R70). -/
theorem eq_deliver_of_exec {x : Instr} {s s' : State} (h : exec x s = .next s') :
    s' = deliver thresholds x.intent (craftMessage thresholds x.intent (x.opcodeBit == 1)) s := by
  rw [exec_eq_deliver] at h
  exact (Host.Outcome.next.inj h).symm

/-- Settles O37: both answers are deliveries of the same result, read field by field. -/
theorem requestFormsChangeOnlyTheirResult : Obligations.RequestFormsChangeOnlyTheirResult := by
  unfold Obligations.RequestFormsChangeOnlyTheirResult
  intro x s s' t t' hs ht
  rw [eq_deliver_of_exec hs, eq_deliver_of_exec ht]
  simp

end Sys2Proof.Machine
end

section
/-! Whole runs (20_memory.md R38, 92_eei_decisions.md D20): the state in which a run ends that presents every pending
vector, in one equation. -/

namespace Sys2Proof.Machine

/-- D20: the state after every pending vector has been presented: the ports as the last one leaves them, and its own result
for each. -/
def afterRun (s : State) : State where
  inputs  := s.pending.getLastD s.inputs
  outputs := (s.pending.map (evalPorts thresholds)).getLastD s.outputs
  pending := []
  results := s.results ++ s.pending.filterMap (resultOf thresholds)

/-- R38: the run that presents every pending vector, from any state. -/
theorem run_pending_eq_afterRun (s : State) : core.run s.pending.length s = .next (afterRun s) := by
  obtain ⟨i, o, ps, rs⟩ := s
  induction ps generalizing i o rs with
  | nil => simp [afterRun, Host.Core.run]
  | cons v rest ih =>
    have hstep := step_of_presented (s := ⟨i, o, v :: rest, rs⟩) rfl
    calc core.run (rest.length + 1) ⟨i, o, v :: rest, rs⟩
        = core.run rest.length ⟨v, evalPorts thresholds v, rest, rs ++ (resultOf thresholds v).toList⟩ :=
          run_succ_of_step hstep _
      _ = .next (afterRun ⟨v, evalPorts thresholds v, rest, rs ++ (resultOf thresholds v).toList⟩) := ih _ _ _
      _ = .next (afterRun ⟨i, o, v :: rest, rs⟩) := by
          simp only [afterRun, List.getLastD_cons, List.map_cons, List.filterMap_eq_flatMap_toList, List.flatMap_cons,
            List.append_assoc]

/-- From an empty record, the record of a whole run holds the own results of the presented requests and nothing else. -/
theorem results_of_run {s s' : State} (hs : s.results = []) (h : core.run s.pending.length s = .next s') :
    s'.results = s.pending.filterMap (resultOf thresholds) := by
  rw [run_pending_eq_afterRun] at h
  cases h
  simp [afterRun, hs]

/-- Settles O47: the run ends in `afterRun`, which is read field by field. -/
theorem runResultsAreTheResultsOfEachRequest : Obligations.RunResultsAreTheResultsOfEachRequest := by
  unfold Obligations.RunResultsAreTheResultsOfEachRequest
  refine fun s => ⟨afterRun s, run_pending_eq_afterRun s, rfl, rfl, fun v hlast => ?_⟩
  simp [afterRun, List.getLastD_eq_getLast?, List.getLast?_map, hlast]

/-- Settles O48: each record is a `filterMap` of the presented vectors, which a permutation goes through. -/
theorem reorderedRequestsGiveReorderedResults : Obligations.ReorderedRequestsGiveReorderedResults := by
  unfold Obligations.ReorderedRequestsGiveReorderedResults
  intro s t s' t' hs ht hperm hrunS hrunT
  rw [results_of_run hs hrunS, results_of_run ht hrunT]
  exact hperm.filterMap _

end Sys2Proof.Machine
end

section
/-! The byte stream of a record (20_memory.md R41, 30_encoding.md R51): whole frames, which cutting by threes gives back, and
after a run the Intents they encode (41_frame_encoder.md R76). -/

namespace Sys2Proof.Machine

/-- R35, R41: only the produced frames reach the byte stream. -/
theorem byteStream_eq_flatMap_frames (rs : List Result) :
    byteStream rs = (rs.filterMap Result.frame).flatMap frameBytes := by
  induction rs with
  | nil => rfl
  | cons r rs ih =>
    have hcons : byteStream (r :: rs) = resultBytes r ++ byteStream rs := rfl
    cases hframe : r.frame with
    | none => simp [hcons, ih, resultBytes, hframe]
    | some f => simp [hcons, ih, resultBytes, hframe]

theorem length_flatMap_frameBytes (fs : List Frame) : (fs.flatMap frameBytes).length = 3 * fs.length := by
  have hthree : ∀ f, (frameBytes f).length = 3 := fun _ => rfl
  simp [List.length_flatMap, hthree, Nat.mul_comm]

/-- R51: counting three bytes from the start cuts whole frames apart. -/
theorem cutFrames_flatMap_frameBytes (fs : List Frame) : cutFrames (fs.flatMap frameBytes) = fs := by
  induction fs with
  | nil => rfl
  | cons f fs ih =>
    calc cutFrames (frameBytes f ++ fs.flatMap frameBytes)
        = f :: cutFrames (fs.flatMap frameBytes) := rfl
      _ = f :: fs := by rw [ih]

theorem cutFrames_byteStream (rs : List Result) : cutFrames (byteStream rs) = rs.filterMap Result.frame := by
  rw [byteStream_eq_flatMap_frames, cutFrames_flatMap_frameBytes]

/-- R24: the frame in a vector's own result is the one the gate lets through. -/
theorem resultOf_bind_frame (t : Thresholds) (v : Inputs) : (resultOf t v).bind Result.frame = gatedFrame t v := by
  rcases bit_cases v.reqValid with h0 | h1
  · have hgate : ¬ (evalPorts t v).frameValid = 1 := fun hvalid => by
      obtain ⟨hreq, -⟩ := (evalPorts_frameValid_eq_one_iff t v).1 hvalid
      exact absurd (h0.symm.trans hreq) (by decide)
    rw [resultOf_of_idle t h0, gatedFrame_of_not_valid hgate]
    rfl
  · rw [resultOf_of_request t h1, gatedFrame_of_request t h1]
    rfl

/-- R76: the frames the gate lets through give back the Intents of their vectors, in order. -/
theorem map_readBack_gatedFrames (t : Thresholds) (vs : List Inputs) :
    (vs.filterMap (gatedFrame t)).map readBack
      = (vs.filter fun v => (evalPorts t v).frameValid = 1).map intentOf := by
  induction vs with
  | nil => rfl
  | cons v vs ih =>
    by_cases hv : (evalPorts t v).frameValid = 1
    · have hkept : decide ((evalPorts t v).frameValid = 1) = true := decide_eq_true hv
      simp only [List.filterMap_cons, gatedFrame_of_valid hv, List.filter_cons, hkept, if_true, List.map_cons,
        readBack_encodeFrame, ih]
    · simp only [List.filterMap_cons, gatedFrame_of_not_valid hv, List.filter_cons, hv, decide_false, Bool.false_eq_true,
        if_false, ih]

/-- Settles O50: the stream cuts back into the produced frames, after a run those of the gate, each of which gives its Intent
back. -/
theorem byteStreamCutsBackIntoFrames : Obligations.ByteStreamCutsBackIntoFrames := by
  unfold Obligations.ByteStreamCutsBackIntoFrames
  refine ⟨fun rs => ⟨?_, cutFrames_byteStream rs⟩, fun s s' hs hrun => ?_⟩
  · rw [byteStream_eq_flatMap_frames, length_flatMap_frameBytes]
  · have hframes : cutFrames (byteStream s'.results) = s.pending.filterMap (gatedFrame thresholds) := by
      rw [cutFrames_byteStream, results_of_run hs hrun, List.filterMap_filterMap]
      simp only [resultOf_bind_frame]
    rw [hframes, map_readBack_gatedFrames]
    simp only [evalPorts_frameValid_eq_one_iff]

end Sys2Proof.Machine
end

section
/-! Decoder and encoder of the request word (30_encoding.md R42, R47, R50): the opcode bit and the Intent operand each go
through both, so each undoes the other. -/

namespace Sys2Proof

/-- A one-bit field, as a value and as the bit it is. -/
theorem extractLsb'_one_eq_ofBool {n : Nat} (v : BitVec n) (j : Nat) :
    v.extractLsb' j 1 = BitVec.ofBool (v.getLsbD j) := by
  apply BitVec.eq_of_getLsbD_eq
  intro k hk
  obtain rfl : k = 0 := by omega
  simp

/-- R42: the fields of an instruction's word, from the top. -/
theorem fields_of_encode (x : Instr) :
    (encode x).extractLsb' 20 1 = x.opcodeBit ∧ (encode x).extractLsb' 19 1 = x.intent.direction.toBit ∧
      (encode x).extractLsb' 18 1 = x.intent.buffer.toBit ∧ (encode x).extractLsb' 17 1 = x.intent.enabled.toBit ∧
      (encode x).extractLsb' 16 1 = x.intent.motor.toBit ∧ (encode x).extractLsb' 0 16 = x.intent.magnitude :=
  fields_of_requestWord _ _ _ _ _ _ (encode x) rfl

@[simp] theorem intentOfRequest_encode (x : Instr) : intentOfRequest (encode x) = x.intent := by
  obtain ⟨-, hd, hb, he, hm, hv⟩ := fields_of_encode x
  simp only [intentOfRequest, hd, hb, he, hm, hv, Motor.ofBit_toBit, Enabled.ofBit_toBit, Buffer.ofBit_toBit,
    Direction.ofBit_toBit]

/-- R47: mask and match of the opcode map read the opcode bit. -/
theorem decodeRequest_of_getLsbD_false {w : ReqWord} (h : w.getLsbD 20 = false) :
    decodeRequest w = .craftU (intentOfRequest w) :=
  if_pos ((and_opcodeMask_eq_matchCraftU w).2 (by rw [extractLsb'_one_eq_ofBool, h]; rfl))

theorem decodeRequest_of_getLsbD_true {w : ReqWord} (h : w.getLsbD 20 = true) :
    decodeRequest w = .craftS (intentOfRequest w) := by
  refine if_neg fun hmask => ?_
  rw [and_opcodeMask_eq_matchCraftU, extractLsb'_one_eq_ofBool, h] at hmask
  exact absurd hmask (by decide)

@[simp] theorem intent_decodeRequest (w : ReqWord) : (decodeRequest w).intent = intentOfRequest w := by
  cases h : w.getLsbD 20 with
  | false => rw [decodeRequest_of_getLsbD_false h, Instr.intent_craftU]
  | true => rw [decodeRequest_of_getLsbD_true h, Instr.intent_craftS]

theorem opcodeBit_decodeRequest (w : ReqWord) : (decodeRequest w).opcodeBit = w.extractLsb' 20 1 := by
  rw [extractLsb'_one_eq_ofBool]
  cases h : w.getLsbD 20 with
  | false => rw [decodeRequest_of_getLsbD_false h]; rfl
  | true => rw [decodeRequest_of_getLsbD_true h]; rfl

@[simp] theorem decodeRequest_encode (x : Instr) : decodeRequest (encode x) = x := by
  cases x with
  | craftU i =>
    obtain ⟨-, hmask⟩ := Laws.OpcodeRow.craftU i
    rw [decodeRequest, if_pos hmask, intentOfRequest_encode, Instr.intent_craftU]
  | craftS i =>
    obtain ⟨-, hmask⟩ := Laws.OpcodeRow.craftS i
    rw [decodeRequest, if_neg hmask, intentOfRequest_encode, Instr.intent_craftS]

/-- R50: every word is laid out again from the fields the decoder read. -/
@[simp] theorem encode_decodeRequest (w : ReqWord) : encode (decodeRequest w) = w := by
  simp only [encode, intent_decodeRequest, opcodeBit_decodeRequest, intentOfRequest, Motor.toBit_ofBit,
    Enabled.toBit_ofBit, Buffer.toBit_ofBit, Direction.toBit_ofBit]
  exact requestWord_eq_fields w

/-- Settles O2: encoder and decoder are inverse to each other. -/
theorem everyRequestWordHasOneMeaning : Obligations.EveryRequestWordHasOneMeaning := by
  unfold Obligations.EveryRequestWordHasOneMeaning
  refine fun w => ⟨encode_decodeRequest w, fun x => ⟨?_, ?_⟩⟩
  · rintro rfl
    exact (encode_decodeRequest w).symm
  · rintro rfl
    exact decodeRequest_encode x

end Sys2Proof
end

section
/-! The byte form of a request word (log 5): three bytes whose number is below 2^21 decode, all others are rejected. -/

namespace Sys2Proof

theorem isRequestWord_wordOfBytes_iff (a b c : Byte) : isRequestWord (wordOfBytes a b c) = true ↔ c.toNat < 32 := by
  have := a.isLt
  have := b.isLt
  rw [isRequestWord_iff, wordOfBytes]
  omega

theorem decodeBytes_of_isRequestWord {a b c : Byte} (h : isRequestWord (wordOfBytes a b c) = true) (rest : List Byte) :
    decodeBytes (a :: b :: c :: rest) = .ok (decodeRequest (BitVec.ofNat 21 (wordOfBytes a b c)), rest) := if_pos h

theorem decodeBytes_of_not_isRequestWord {a b c : Byte} (h : ¬ isRequestWord (wordOfBytes a b c) = true)
    (rest : List Byte) : decodeBytes (a :: b :: c :: rest) = .error .notARequestWord := if_neg h

theorem decodeBytes_eq_notARequestWord_iff (a b c : Byte) (rest : List Byte) :
    decodeBytes (a :: b :: c :: rest) = .error .notARequestWord ↔ ¬ isRequestWord (wordOfBytes a b c) = true := by
  refine ⟨fun herror h => ?_, fun h => decodeBytes_of_not_isRequestWord h rest⟩
  rw [decodeBytes_of_isRequestWord h] at herror
  cases herror

theorem decodeBytes_ne_truncated (a b c : Byte) (rest : List Byte) :
    decodeBytes (a :: b :: c :: rest) ≠ .error .truncated := by
  by_cases h : isRequestWord (wordOfBytes a b c) = true
  · simp [decodeBytes_of_isRequestWord h]
  · simp [decodeBytes_of_not_isRequestWord h]

theorem decodeBytes_layoutBytes (w : ReqWord) (rest : List Byte) :
    decodeBytes (layoutBytes w.toNat ++ rest) = .ok (decodeRequest w, rest) := by
  have hword := wordOfBytes_layout (n := w.toNat) (by omega)
  have hlegal := (isRequestWord_iff w.toNat).2 w.isLt
  rw [← hword] at hlegal
  calc decodeBytes (layoutBytes w.toNat ++ rest)
      = .ok (decodeRequest (BitVec.ofNat 21 (wordOfBytes _ _ _)), rest) := decodeBytes_of_isRequestWord hlegal rest
    _ = .ok (decodeRequest w, rest) := by rw [hword, BitVec.ofNat_toNat, BitVec.setWidth_eq]

theorem decodeTableWord_toNat (w : ReqWord) : decodeTableWord 24 w.toNat = some (decodeRequest w) := by
  have hmod : w.toNat % 2 ^ 24 = w.toNat := Nat.mod_eq_of_lt (by omega)
  have hbytes := decodeBytes_layoutBytes w []
  rw [List.append_nil] at hbytes
  rw [decodeTableWord, hmod, if_pos (by omega), hbytes]

/-- Settles O1: word, bytes and table number all lead to `decodeRequest` of the instruction's word. -/
theorem decodeOfEncodeIsTheInstruction : Obligations.DecodeOfEncodeIsTheInstruction := by
  unfold Obligations.DecodeOfEncodeIsTheInstruction
  refine fun x => ⟨by cases x <;> rfl, decodeRequest_encode x, fun rest => ?_, ?_⟩
  · rw [encodeBytes, decodeBytes_layoutBytes, decodeRequest_encode]
  · rw [decodeTableWord_toNat, decodeRequest_encode]

/-- Settles O5: lists by their length, and three bytes by the third, in which alone a bit above `REQ[20]` can be set. -/
theorem decoderRejectsByName : Obligations.DecoderRejectsByName := by
  unfold Obligations.DecoderRejectsByName
  refine ⟨fun bs => ?_, fun a b c rest => ?_, fun a b c rest hc => ?_⟩
  · match bs with
    | [] | [_] | [_, _] => simp [decodeBytes]
    | a :: b :: c :: rest => simp [decodeBytes_ne_truncated]
  · rw [decodeBytes_eq_notARequestWord_iff, isRequestWord_wordOfBytes_iff, Nat.not_lt]
  · have hlegal := (isRequestWord_wordOfBytes_iff a b c).2 hc
    refine ⟨_, decodeBytes_of_isRequestWord hlegal rest, ?_⟩
    rw [encode_decodeRequest, BitVec.toNat_ofNat, Nat.mod_eq_of_lt ((isRequestWord_iff _).1 hlegal), wordOfBytes]

/-- Settles O6 by running the decoder on the five numbers. -/
theorem wordsOfTheSpecDecode : Obligations.WordsOfTheSpecDecode := by
  unfold Obligations.WordsOfTheSpecDecode
  decide

end Sys2Proof
end

section
/-! The opcode bit and the one-bit fields (30_encoding.md R43, R47), and the request on the ports (R42). -/

namespace Sys2Proof

theorem extractLsb'_congr {n j len k : Nat} {v v' : BitVec n} (h : ∀ i < k, v'.getLsbD i = v.getLsbD i)
    (hle : j + len ≤ k) : v'.extractLsb' j len = v.extractLsb' j len := by
  apply BitVec.eq_of_getLsbD_eq
  intro i hi
  simp only [BitVec.getLsbD_extractLsb', h (j + i) (by omega)]

/-- R47: the Intent operand is `REQ[19:0]`. -/
theorem intentOfRequest_congr {w w' : ReqWord} (h : ∀ k < 20, w'.getLsbD k = w.getLsbD k) :
    intentOfRequest w' = intentOfRequest w := by
  simp only [intentOfRequest, extractLsb'_congr h (show 16 + 1 ≤ 20 by omega),
    extractLsb'_congr h (show 17 + 1 ≤ 20 by omega), extractLsb'_congr h (show 18 + 1 ≤ 20 by omega),
    extractLsb'_congr h (show 19 + 1 ≤ 20 by omega), extractLsb'_congr h (show 0 + 16 ≤ 20 by omega)]

/-- R47: the mask leaves the opcode bit in its place. -/
theorem and_opcodeMask (w : ReqWord) : w &&& 0x100000 = if w.getLsbD 20 then 0x100000 else 0x000000 :=
  BitVec.and_twoPow w 20

theorem decodeRequest_eq_craftU_iff (w : ReqWord) :
    decodeRequest w = .craftU (intentOfRequest w) ↔ w.getLsbD 20 = false := by
  refine ⟨fun hU => ?_, decodeRequest_of_getLsbD_false⟩
  by_contra h
  rw [decodeRequest_of_getLsbD_true (Bool.eq_true_of_not_eq_false h)] at hU
  cases hU

theorem decodeRequest_eq_craftS_iff (w : ReqWord) :
    decodeRequest w = .craftS (intentOfRequest w) ↔ w.getLsbD 20 = true := by
  refine ⟨fun hS => ?_, decodeRequest_of_getLsbD_true⟩
  by_contra h
  rw [decodeRequest_of_getLsbD_false (Bool.eq_false_of_not_eq_true h)] at hS
  cases hS

/-- Settles O3: the decoder's two cases by the opcode bit; `safe` is what the delivery of either form shows. -/
theorem opcodeBitSelectsTheForm : Obligations.OpcodeBitSelectsTheForm := by
  unfold Obligations.OpcodeBitSelectsTheForm
  intro w
  refine ⟨decodeRequest_eq_craftU_iff w, decodeRequest_eq_craftS_iff w, ?_, ?_, fun w' => intentOfRequest_congr,
    fun s => ⟨_, Machine.exec_eq_deliver _ s, ?_⟩⟩
  · rw [and_opcodeMask]
    cases w.getLsbD 20 <;> simp
  · rw [and_opcodeMask]
    cases w.getLsbD 20 <;> simp
  · rw [Machine.deliver_outputs, intent_decodeRequest]
    rfl

end Sys2Proof
end

section
/-! The request on the ports (30_encoding.md R42, R96): what a driven or presented vector carries, and the step that runs
it (log 6). -/

namespace Sys2Proof.Machine

@[simp] theorem intentOf_driveWord (w : ReqWord) (r : Bit) : intentOf (driveWord w r) = intentOfRequest w := by
  rw [← intentOfRequest_requestOf, requestOf_driveWord]

theorem driveWord_requestOf (v : Inputs) : driveWord (requestOf v) v.reqValid = v := by
  obtain ⟨hs, hd, hb, he, hm, hv⟩ := fields_of_requestWord _ _ _ _ _ _ (requestOf v) rfl
  simp only [driveWord, hs, hd, hb, he, hm, hv]

@[simp] theorem requestOf_presentation (x : Instr) : requestOf (presentation x) = encode x := requestOf_driveWord _ 1

@[simp] theorem intentOf_presentation (x : Instr) : intentOf (presentation x) = x.intent := by
  rw [presentation, intentOf_driveWord, intentOfRequest_encode]

@[simp] theorem reqValid_presentation (x : Instr) : (presentation x).reqValid = 1 := rfl

/-- Four bits side by side are the one-bit fields at their places. -/
theorem extractLsb'_four_eq_bits {n : Nat} (v : BitVec n) (j : Nat) : v.extractLsb' j 4 =
    v.extractLsb' (j + 3) 1 ++ v.extractLsb' (j + 2) 1 ++ v.extractLsb' (j + 1) 1 ++ v.extractLsb' j 1 := by
  rw [BitVec.extractLsb'_append_extractLsb'_eq_extractLsb' (show j + 3 = j + 2 + 1 from rfl),
    BitVec.extractLsb'_append_extractLsb'_eq_extractLsb' (show j + 2 = j + 1 + 1 from rfl),
    BitVec.extractLsb'_append_extractLsb'_eq_extractLsb' (show j + 1 = j + 1 from rfl)]

/-- R42, R61: `REQ[19:16]` is the control nibble. -/
theorem controlBits_of_requestOf (v : Inputs) : (requestOf v).extractLsb' 16 4 = controlBits (intentOf v) := by
  obtain ⟨-, hd, hb, he, hm, -⟩ := fields_of_requestWord _ _ _ _ _ _ (requestOf v) rfl
  rw [extractLsb'_four_eq_bits, hd, hb, he, hm]
  simp only [controlBits, intentOf, Motor.toBit_ofBit, Enabled.toBit_ofBit, Buffer.toBit_ofBit, Direction.toBit_ofBit]

/-- Settles O34, from the fields of a concatenation and from a driven word's request. -/
theorem presentationCarriesTheRequest : Obligations.PresentationCarriesTheRequest := by
  unfold Obligations.PresentationCarriesTheRequest
  refine ⟨fun v => ?_, fun x => ?_, fun v hv => ?_⟩
  · obtain ⟨hs, hd, hb, he, hm, hmag⟩ := fields_of_requestWord _ _ _ _ _ _ (requestOf v) rfl
    refine ⟨hs, hd, hb, he, hm, hmag, ?_, fun _ => rfl, by omega⟩
    rw [controlBits_of_requestOf, controlNibble_eq_zext8]
  · obtain ⟨hs, -⟩ := fields_of_encode x
    exact ⟨requestOf_presentation x, intentOf_presentation x, hs, reqValid_presentation x⟩
  · rw [presentation, encode_decodeRequest, ← hv, driveWord_requestOf]

/-! ## The word stored for the next step (log 6) -/

theorem presentTableWord_encode (x : Instr) : presentTableWord 24 (encode x).toNat = presentation x := by
  have hmod : (encode x).toNat % 2 ^ 24 = (encode x).toNat := Nat.mod_eq_of_lt (by omega)
  have hlegal : isRequestWord (encode x).toNat = true := (isRequestWord_iff _).2 (encode x).isLt
  rw [presentTableWord, hmod, hlegal, BitVec.ofNat_toNat, BitVec.setWidth_eq]
  rfl

theorem presentTableWord_reqValid_of_large {n w : Nat} (h : 0x1FFFFF < w % 2 ^ n) :
    (presentTableWord n w).reqValid = 0 := by
  have hlegal : isRequestWord (w % 2 ^ n) = false := decide_eq_false (by omega)
  rw [presentTableWord, hlegal]
  rfl

/-- R24: without a request no frame, whatever the other ports carry. -/
theorem evalPorts_frameValid_of_idle (t : Thresholds) {v : Inputs} (hv : v.reqValid = 0) :
    (evalPorts t v).frameValid = 0 := by
  refine (bit_cases _).resolve_right fun hvalid => ?_
  obtain ⟨hreq, -⟩ := (evalPorts_frameValid_eq_one_iff t v).1 hvalid
  exact absurd (hv.symm.trans hreq) (by decide)

/-- Settles O40: the stored word is the presentation of its instruction, or a vector without a request. -/
theorem fetchWordIsRunByTheNextStep : Obligations.FetchWordIsRunByTheNextStep := by
  unfold Obligations.FetchWordIsRunByTheNextStep
  refine ⟨fun s x => ?_, fun s n w hlarge => ?_⟩
  · have hpending := withFetchWord_pending s 24 (encode x).toNat
    rw [presentTableWord_encode] at hpending
    rw [stepRunsThePresentedRequest _ _ _ hpending (reqValid_presentation x), requestOf_presentation,
      decodeRequest_encode]
    rfl
  · have hidle := presentTableWord_reqValid_of_large hlarge
    exact ⟨_, step_of_idle (withFetchWord_pending s n w) hidle, rfl, rfl,
      evalPorts_frameValid_of_idle thresholds hidle⟩

end Sys2Proof.Machine
end

section
/-! The one-bit fields of an Intent, and where each stands in the frame and in the request word (30_encoding.md R43, R45). -/

namespace Sys2Proof

theorem Motor.toBit_eq_ofBool (m : Motor) : m.toBit = BitVec.ofBool (decide (m = .B)) := by cases m <;> rfl
theorem Enabled.toBit_eq_ofBool (e : Enabled) : e.toBit = BitVec.ofBool (decide (e = .enabled)) := by cases e <;> rfl
theorem Buffer.toBit_eq_ofBool (b : Buffer) : b.toBit = BitVec.ofBool (decide (b = .hightime)) := by cases b <;> rfl
theorem Direction.toBit_eq_ofBool (d : Direction) : d.toBit = BitVec.ofBool (decide (d = .forward)) := by cases d <;> rfl

/-- The bit at a place where a one-bit field stands. -/
theorem getLsbD_of_extractLsb'_one {n j : Nat} {v : BitVec n} {b : Bool} (h : v.extractLsb' j 1 = BitVec.ofBool b) :
    v.getLsbD j = b := by
  rw [extractLsb'_one_eq_ofBool] at h
  exact BitVec.ofBool_eq_iff_eq.1 h

end Sys2Proof

namespace Sys2Proof.Machine

/-- R45: byte 0 of a frame is the checksum nibble above the control bits. -/
theorem encodeFrame_b0 (i : Intent) : (encodeFrame i).b0 =
    chk (controlNibble i) (highByte i.magnitude) (lowByte i.magnitude) ++ controlBits i := by rw [encodeFrame_eq]

/-- R43, R45: the four control bits of byte 0, each with its polarity. -/
theorem controlBits_of_encodeFrame (i : Intent) :
    (encodeFrame i).b0.getLsbD 0 = decide (i.motor = .B) ∧ (encodeFrame i).b0.getLsbD 1 = decide (i.enabled = .enabled) ∧
      (encodeFrame i).b0.getLsbD 2 = decide (i.buffer = .hightime) ∧
      (encodeFrame i).b0.getLsbD 3 = decide (i.direction = .forward) := by
  have hlow : ∀ k < 4, ∀ b, (controlBits i).extractLsb' k 1 = BitVec.ofBool b → (encodeFrame i).b0.getLsbD k = b :=
    fun k hk b h => getLsbD_of_extractLsb'_one (by rw [encodeFrame_b0, extractLsb'_of_nibbles _ _ hk, h])
  obtain ⟨hm, he, hb, hd⟩ := controlBits_getLsbD i
  rw [Motor.toBit_eq_ofBool] at hm
  rw [Enabled.toBit_eq_ofBool] at he
  rw [Buffer.toBit_eq_ofBool] at hb
  rw [Direction.toBit_eq_ofBool] at hd
  exact ⟨hlow 0 (by omega) _ hm, hlow 1 (by omega) _ he, hlow 2 (by omega) _ hb, hlow 3 (by omega) _ hd⟩

/-- Settles O4: one field after another, in the frame, on its port and in the request word. -/
theorem oneBitFieldEncodings : Obligations.OneBitFieldEncodings := by
  unfold Obligations.OneBitFieldEncodings
  intro x
  obtain ⟨hm, he, hb, hd⟩ := controlBits_of_encodeFrame x.intent
  obtain ⟨-, hd', hb', he', hm', -⟩ := fields_of_encode x
  rw [Motor.toBit_eq_ofBool] at hm'
  rw [Enabled.toBit_eq_ofBool] at he'
  rw [Buffer.toBit_eq_ofBool] at hb'
  rw [Direction.toBit_eq_ofBool] at hd'
  refine ⟨?_, ?_, ?_, ?_⟩ <;> rintro _ rfl
  · exact ⟨hm, hm', getLsbD_of_extractLsb'_one hm'⟩
  · exact ⟨he, he', getLsbD_of_extractLsb'_one he'⟩
  · exact ⟨hb, hb', getLsbD_of_extractLsb'_one hb'⟩
  · exact ⟨hd, hd', getLsbD_of_extractLsb'_one hd'⟩

/-- R45, R61: the control bits as the OR of the four fields, each shifted to its place. -/
theorem or_of_control_bits : ∀ d b e m : Bit, (d ++ b ++ e ++ m : Nibble) =
    (m.setWidth 4 ||| (e.setWidth 4 <<< 1) ||| (b.setWidth 4 <<< 2) ||| (d.setWidth 4 <<< 3)) := by decide

/-- Settles O13: the low four bits are the control bits, the high four the checksum. -/
theorem controlByteBitByBit : Obligations.ControlByteBitByBit := by
  unfold Obligations.ControlByteBitByBit
  rintro i _ rfl
  obtain ⟨hm, he, hb, hd⟩ := controlBits_of_encodeFrame i
  simp only [hm, he, hb, hd, decide_eq_true_iff, true_and]
  refine ⟨fun k hk => ?_, ?_, by omega⟩
  · rw [encodeFrame_b0, BitVec.getLsbD_append, if_neg (by omega), Nat.add_sub_cancel_left]
  · rw [encodeFrame_b0, lowNibble_append]
    exact or_of_control_bits _ _ _ _

end Sys2Proof.Machine
end

section
/-! The frame as `FRAME24` (30_encoding.md R44) and the valid frames (R49, 41_frame_encoder.md R76): the number is the frame's
three bytes, and a valid frame is that of the Intent read back from it. -/

namespace Sys2Proof.Machine

/-- A part of a part of a value. -/
theorem extractLsb'_extractLsb' {n a l b m : Nat} (v : BitVec n) (h : b + m ≤ l) :
    (v.extractLsb' a l).extractLsb' b m = v.extractLsb' (a + b) m := by
  apply BitVec.eq_of_getLsbD_eq
  intro i hi
  simp [hi, show b + i < l by omega, Nat.add_assoc]

/-! ## `FRAME24` -/

theorem frame24_toNat (f : Frame) : (frame24 f).toNat = 65536 * f.b0.toNat + 256 * f.b1.toNat + f.b2.toNat := by
  have := f.b2.isLt
  rw [frame24, BitVec.toNat_append, ← Nat.shiftLeft_add_eq_or_of_lt (by omega), Nat.shiftLeft_eq, bytes_append_toNat]
  omega

theorem bytes_of_frame24 (f : Frame) : (frame24 f).extractLsb' 16 8 = f.b0 ∧ (frame24 f).extractLsb' 8 8 = f.b1 ∧
    (frame24 f).extractLsb' 0 8 = f.b2 := by
  have hbyte : ∀ j b, (65536 * f.b0.toNat + 256 * f.b1.toNat + f.b2.toNat) / 2 ^ j % 2 ^ 8 = b.toNat →
      (frame24 f).extractLsb' j 8 = b := fun j b h => BitVec.eq_of_toNat_eq
    (by rw [BitVec.extractLsb'_toNat, frame24_toNat, Nat.shiftRight_eq_div_pow, h])
  exact ⟨hbyte 16 _ (by omega), hbyte 8 _ (by omega), hbyte 0 _ (by omega)⟩

@[simp] theorem frameOf24_frame24 (f : Frame) : frameOf24 (frame24 f) = f := by
  obtain ⟨h0, h1, h2⟩ := bytes_of_frame24 f
  rw [frameOf24, h0, h1, h2]

@[simp] theorem frame24_frameOf24 (w : BitVec 24) : frame24 (frameOf24 w) = w := by
  rw [frame24, frameOf24, BitVec.extractLsb'_append_extractLsb'_eq_extractLsb' (show 16 = 8 + 8 from rfl),
    BitVec.extractLsb'_append_extractLsb'_eq_extractLsb' (show 8 = 0 + 8 from rfl), BitVec.extractLsb'_eq_self]

/-- R44: the six nibbles of `FRAME24`, read in transmission order. -/
theorem nibbles_of_frame24 (f : Frame) :
    (frame24 f).extractLsb' 20 4 = highNibble f.b0 ∧ (frame24 f).extractLsb' 16 4 = lowNibble f.b0 ∧
      (frame24 f).extractLsb' 12 4 = highNibble f.b1 ∧ (frame24 f).extractLsb' 8 4 = lowNibble f.b1 ∧
      (frame24 f).extractLsb' 4 4 = highNibble f.b2 ∧ (frame24 f).extractLsb' 0 4 = lowNibble f.b2 := by
  obtain ⟨h0, h1, h2⟩ := bytes_of_frame24 f
  simp [← h0, ← h1, ← h2, highNibble, lowNibble, extractLsb'_extractLsb']

/-- R63: the payload nibbles as nibbles of the magnitude. -/
theorem nibbles_of_magnitude (v : Magnitude) :
    highNibble (highByte v) = v.extractLsb' 12 4 ∧ lowNibble (highByte v) = v.extractLsb' 8 4 ∧
      highNibble (lowByte v) = v.extractLsb' 4 4 ∧ lowNibble (lowByte v) = v.extractLsb' 0 4 := by
  simp [highNibble, lowNibble, highByte, lowByte, extractLsb'_extractLsb']

/-- Settles O15: the nibbles of the number are those of the bytes, which the encoder makes from the Intent. -/
theorem frame24Layout : Obligations.Frame24Layout := by
  unfold Obligations.Frame24Layout
  refine ⟨fun f => ⟨frameOf24_frame24 f, frame24_toNat f⟩, fun i => ?_, by decide⟩
  obtain ⟨n0, n1, n2, n3, n4, n5⟩ := nibbles_of_frame24 (encodeFrame i)
  obtain ⟨m0, m1, m2, m3⟩ := nibbles_of_magnitude i.magnitude
  rw [n0, n1, n2, n3, n4, n5, ← m0, ← m1, ← m2, ← m3, encodeFrame_eq, highNibble_append, lowNibble_append]
  exact ⟨rfl, rfl, rfl, rfl, rfl, rfl⟩

/-! ## The valid frames -/

/-- R76: the control bits of the Intent read back are the low nibble of byte 0. -/
theorem controlBits_readBack (f : Frame) : controlBits (readBack f) = lowNibble f.b0 := by
  rw [lowNibble, extractLsb'_four_eq_bits]
  simp only [controlBits, readBack, Motor.toBit_ofBit, Enabled.toBit_ofBit, Buffer.toBit_ofBit, Direction.toBit_ofBit]

/-- R49, R76: the encoder makes a valid frame again from the Intent read back, the checksum being the one it had. -/
theorem encodeFrame_readBack {f : Frame} (h : validFrame f = true) : encodeFrame (readBack f) = f := by
  have hmag : (readBack f).magnitude = f.b1 ++ f.b2 := rfl
  rw [encodeFrame_eq, controlNibble_eq_zext8, controlBits_readBack, hmag, highByte_append, lowByte_append,
    ← (validFrame_iff f).1 h, highNibble_append_lowNibble]

/-- Settles O18: the Intent is the one read back; no other encodes to the same frame. -/
theorem validFramesAreTheEncodedIntents : Obligations.ValidFramesAreTheEncodedIntents := by
  unfold Obligations.ValidFramesAreTheEncodedIntents
  refine ⟨fun f => ⟨fun h => ⟨readBack f, encodeFrame_readBack h, ?_⟩, ?_⟩, fun f => encodeFrame_readBack, by decide⟩
  · rintro j rfl
    exact (readBack_encodeFrame j).symm
  · rintro ⟨i, rfl, -⟩
    exact validFrame_encodeFrame i

/-! ## Their number -/

/-- R42: the number of an Intent, `REQ[19:0]`, which is its word under the opcode bit 0. -/
def intentNumber (i : Intent) : Nat := (encode (.craftU i)).toNat

/-- R44: the frame of the Intent with a number, itself as a number. -/
def frameNumber (n : Nat) : Nat := (frame24 (encodeFrame (intentOfRequest (BitVec.ofNat 21 n)))).toNat

theorem intentNumber_lt (i : Intent) : intentNumber i < 2 ^ 20 := by
  obtain ⟨hs, -⟩ := fields_of_encode (.craftU i)
  have h20 : (encode (.craftU i)).toNat >>> 20 % 2 ^ 1 = 0 :=
    (BitVec.extractLsb'_toNat ..).symm.trans (congrArg BitVec.toNat hs)
  rw [Nat.shiftRight_eq_div_pow] at h20
  rw [intentNumber]
  omega

theorem intentNumber_intentOfRequest {n : Nat} (h : n < 2 ^ 20) :
    intentNumber (intentOfRequest (BitVec.ofNat 21 n)) = n := by
  have h20 : (BitVec.ofNat 21 n).getLsbD 20 = false := by
    rw [BitVec.getLsbD_ofNat, Nat.testBit_lt_two_pow h, Bool.and_false]
  rw [intentNumber, ← decodeRequest_of_getLsbD_false h20, encode_decodeRequest, BitVec.toNat_ofNat]
  omega

theorem frameNumber_intentNumber (i : Intent) : frameNumber (intentNumber i) = (frame24 (encodeFrame i)).toNat := by
  rw [frameNumber, intentNumber, BitVec.ofNat_toNat, BitVec.setWidth_eq, intentOfRequest_encode, Instr.intent_craftU]

theorem frameNumber_lt (n : Nat) : frameNumber n < 2 ^ 24 := BitVec.isLt _

theorem frameOf24_frameNumber (n : Nat) :
    frameOf24 (BitVec.ofNat 24 (frameNumber n)) = encodeFrame (intentOfRequest (BitVec.ofNat 21 n)) := by
  rw [frameNumber, BitVec.ofNat_toNat, BitVec.setWidth_eq, frameOf24_frame24]

/-- Settles O19: each valid value has the number of its Intent, and each of the 2^20 Intents the number of its frame. -/
theorem validFrameCount : Obligations.ValidFrameCount := by
  unfold Obligations.ValidFrameCount
  rw [← Finset.card_range (2 ^ 20)]
  refine Finset.card_bij' (fun m _ => intentNumber (readBack (frameOf24 (BitVec.ofNat 24 m)))) (fun n _ => frameNumber n)
    (fun m _ => ?_) (fun n _ => ?_) (fun m hm => ?_) (fun n hn => ?_)
  · exact Finset.mem_range.2 (intentNumber_lt _)
  · rw [Finset.mem_filter, Finset.mem_range, frameOf24_frameNumber]
    exact ⟨frameNumber_lt n, validFrame_encodeFrame _⟩
  · obtain ⟨hlt, hvalid⟩ := Finset.mem_filter.1 hm
    rw [frameNumber_intentNumber, encodeFrame_readBack hvalid, frame24_frameOf24, BitVec.toNat_ofNat,
      Nat.mod_eq_of_lt (Finset.mem_range.1 hlt)]
  · rw [frameOf24_frameNumber, readBack_encodeFrame, intentNumber_intentOfRequest (Finset.mem_range.1 hn)]

end Sys2Proof.Machine
end

section
/-! The written request (30_encoding.md R52): each operand is read back from its own text, the magnitude from either numeral,
and each line expands to the ports of its Intent. -/

namespace Sys2Proof.Machine

/-! ## Numerals -/

/-- Reading goes on where it stopped. -/
theorem readDigits_append (base acc : Nat) (cs ds : List Char) :
    readDigits base acc (cs ++ ds) = (readDigits base acc cs).bind fun n => readDigits base n ds := by
  induction cs generalizing acc with
  | nil => rfl
  | cons c cs ih =>
    rw [List.cons_append, readDigits, readDigits]
    cases digitValue base c with
    | none => rfl
    | some d => exact ih _

theorem readDigits_singleton {base d : Nat} {c : Char} (h : digitValue base c = some d) (acc : Nat) :
    readDigits base acc [c] = some (base * acc + d) := by
  simp [readDigits, h]

/-- The four hexadecimal digits of a magnitude weigh 4096, 256, 16 and 1. -/
theorem readMagnitude_writeMagnitude (v : Magnitude) : readMagnitude (writeMagnitude v) = some v := by
  have hv := v.isLt
  have hdigits : readDigits 16 0 [writeDigit (v.toNat / 4096), writeDigit (v.toNat / 256 % 16),
      writeDigit (v.toNat / 16 % 16), writeDigit (v.toNat % 16)] = some v.toNat := by
    simp only [readDigits, digitValue_writeDigit _ (show v.toNat / 4096 < 16 by omega),
      digitValue_writeDigit _ (show v.toNat / 256 % 16 < 16 by omega),
      digitValue_writeDigit _ (show v.toNat / 16 % 16 < 16 by omega),
      digitValue_writeDigit _ (show v.toNat % 16 < 16 by omega), Option.some.injEq]
    omega
  rw [writeMagnitude, readMagnitude, hdigits, Option.map_some, BitVec.ofNat_toNat, BitVec.setWidth_eq]

theorem digitValue_digitChar : ∀ d < 10, digitValue 10 d.digitChar = some d := by decide

/-- The decimal numeral of a number is read as the number, one digit after another from the top. -/
theorem readDigits_toDigits (n : Nat) : readDigits 10 0 (Nat.toDigits 10 n) = some n := by
  induction n using Nat.strongRecOn with
  | ind n ih =>
    rw [Nat.toDigits_eq_if (by omega)]
    split
    case isTrue hlt => rw [readDigits_singleton (digitValue_digitChar n hlt), Nat.mul_zero, Nat.zero_add]
    case isFalse hge =>
      rw [readDigits_append, ih (n / 10) (by omega), Option.bind_some,
        readDigits_singleton (digitValue_digitChar (n % 10) (by omega)), Nat.div_add_mod]

/-- A text without the `x` of `0x` is read as a decimal numeral. -/
theorem readMagnitude_of_decimal {cs : List Char} {n : Nat} (hx : 'x' ∉ cs) (hne : cs ≠ [])
    (hread : readDigits 10 0 cs = some n) : readMagnitude cs = if n ≤ 65535 then some (BitVec.ofNat 16 n) else none := by
  unfold readMagnitude
  split
  · simp at hx
  · exact absurd rfl hne
  · rw [hread]

/-- Settles O53: a decimal numeral has digits only, and they are read as its number. -/
theorem decimalMagnitudesAreRead : Obligations.DecimalMagnitudesAreRead := by
  unfold Obligations.DecimalMagnitudesAreRead
  refine fun n => readMagnitude_of_decimal (fun hx => ?_) Nat.toDigits_ne_nil (readDigits_toDigits n)
  exact absurd (Nat.isDigit_of_mem_toDigits (by omega) (by omega) hx) (by decide)

/-! ## Lines -/

/-- R52: the mnemonic ends at the first space and each operand but the last at its comma. -/
theorem readLine_writeLine (l : Line) : readLine (writeLine l) = some l := by
  simp [readLine, writeLine, splitFirst_append (space_notin_mnemonic _), splitOperand_append (comma_notin_motor _),
    splitOperand_append (comma_notin_enabled _), splitOperand_append (comma_notin_direction _),
    splitOperand_append (comma_notin_buffer _), readMagnitude_writeMagnitude]

@[simp] theorem intentOf_expand (l : Line) : intentOf (expand l) = l.operands := by
  obtain ⟨m, i⟩ := l
  cases m <;> simp [expand]

/-- Settles O52: the request forms expand to their presentation, and `ISSAFE` to the same Intent without a request. -/
theorem writtenLinesReadBack : Obligations.WrittenLinesReadBack := by
  unfold Obligations.WrittenLinesReadBack
  refine ⟨readLine_writeLine, fun i => ⟨rfl, rfl, rfl⟩, fun t i => ⟨?_, ?_⟩⟩
  · rw [evalPorts_safe, intentOf_expand]
  · exact evalPorts_frameValid_of_idle t rfl

end Sys2Proof.Machine
end

section
/-! The safety comparator (40_safety_comparator.md): the predicate read as a comparison of numbers under the guard on
`buffer` (R53, R56), and the one threshold entry it reads (R57, R58). -/

namespace Sys2Proof.Machine

theorem isSafe_iff_of_period (t : Thresholds) {i : Intent} (h : i.buffer = .period) :
    isSafe t i = true ↔ (periodMin t i.motor).toNat ≤ i.magnitude.toNat := by
  rw [isSafe_of_period t h, decide_eq_true_iff]

theorem isSafe_iff_of_hightime (t : Thresholds) {i : Intent} (h : i.buffer = .hightime) :
    isSafe t i = true ↔ i.magnitude.toNat ≤ (hightimeMax t i.motor).toNat := by
  rw [isSafe_of_hightime t h, decide_eq_true_iff]

theorem isSafe_eq_false_iff_of_period (t : Thresholds) {i : Intent} (h : i.buffer = .period) :
    isSafe t i = false ↔ i.magnitude.toNat < (periodMin t i.motor).toNat := by
  rw [isSafe_of_period t h, decide_eq_false_iff_not, Nat.not_le]

theorem isSafe_eq_false_iff_of_hightime (t : Thresholds) {i : Intent} (h : i.buffer = .hightime) :
    isSafe t i = false ↔ (hightimeMax t i.motor).toNat < i.magnitude.toNat := by
  rw [isSafe_of_hightime t h, decide_eq_false_iff_not, Nat.not_le]

/-- R53: each rule under its own guard; the guards are complementary. -/
theorem isSafe_iff (t : Thresholds) (i : Intent) : isSafe t i = true ↔
    (i.buffer = .period ∧ (periodMin t i.motor).toNat ≤ i.magnitude.toNat) ∨
    (i.buffer = .hightime ∧ i.magnitude.toNat ≤ (hightimeMax t i.motor).toNat) := by
  cases h : i.buffer with
  | period => simp [isSafe_iff_of_period t h]
  | hightime => simp [isSafe_iff_of_hightime t h]

theorem isSafe_eq_false_iff (t : Thresholds) (i : Intent) : isSafe t i = false ↔
    (i.buffer = .period ∧ i.magnitude.toNat < (periodMin t i.motor).toNat) ∨
    (i.buffer = .hightime ∧ (hightimeMax t i.motor).toNat < i.magnitude.toNat) := by
  cases h : i.buffer with
  | period => simp [isSafe_eq_false_iff_of_period t h]
  | hightime => simp [isSafe_eq_false_iff_of_hightime t h]

/-- R56 to R58: besides `buffer` and `magnitude` the predicate reads one threshold entry, the one that `buffer` and `motor`
select. -/
theorem isSafe_congr {t t' : Thresholds} {i i' : Intent} (hbuffer : i'.buffer = i.buffer)
    (hmagnitude : i'.magnitude = i.magnitude)
    (hperiod : i.buffer = .period → periodMin t' i'.motor = periodMin t i.motor)
    (hhightime : i.buffer = .hightime → hightimeMax t' i'.motor = hightimeMax t i.motor) :
    isSafe t' i' = isSafe t i := by
  cases h : i.buffer with
  | period => rw [isSafe_of_period t h, isSafe_of_period t' (hbuffer.trans h), hmagnitude, hperiod h]
  | hightime => rw [isSafe_of_hightime t h, isSafe_of_hightime t' (hbuffer.trans h), hmagnitude, hhightime h]

/-- R6: the same thresholds for both motors. -/
@[simp] theorem periodMin_thresholds (m : Motor) : periodMin thresholds m = 150 := by cases m <;> rfl
@[simp] theorem hightimeMax_thresholds (m : Motor) : hightimeMax thresholds m = 50 := by cases m <;> rfl

theorem buffer_ofBit_eq_period_iff : ∀ b : Bit, Buffer.ofBit b = .period ↔ b = 0 := by decide
theorem buffer_ofBit_eq_hightime_iff : ∀ b : Bit, Buffer.ofBit b = .hightime ↔ b = 1 := by decide

/-- R53 over the port bits, with the lookup by port index (R28). -/
theorem evalPorts_safe_eq_one_iff (t : Thresholds) (v : Inputs) : (evalPorts t v).safe = 1 ↔
    (v.buffer = 0 ∧ (periodMinAt t v.motor).toNat ≤ v.magnitude.toNat) ∨
    (v.buffer = 1 ∧ v.magnitude.toNat ≤ (hightimeMaxAt t v.motor).toNat) := by
  rw [evalPorts_safe, ofBool_eq_one, isSafe_iff, periodMinAt_eq, hightimeMaxAt_eq, ← buffer_ofBit_eq_period_iff,
    ← buffer_ofBit_eq_hightime_iff]
  rfl

/-! ## The statements about the predicate -/

/-- Settles O22: the predicate rule by rule, and the port as the predicate of the Intent on the ports. -/
theorem isSafeIsTheThresholdComparison : Obligations.IsSafeIsTheThresholdComparison := by
  unfold Obligations.IsSafeIsTheThresholdComparison
  refine ⟨isSafe_iff, evalPorts_safe_eq_one_iff, fun i h => ?_, fun i h => ?_, fun m e d => ⟨?_, ?_⟩⟩
  · rw [isSafe_iff_of_period _ h, periodMin_thresholds]
    rfl
  · rw [isSafe_iff_of_hightime _ h, hightimeMax_thresholds]
    rfl
  · rw [isSafe_iff_of_period _ rfl, periodMin_thresholds]
    show 150 ≤ 0x8000
    decide
  · rw [isSafe_eq_false_iff_of_hightime _ rfl, hightimeMax_thresholds]
    show 50 < 0x8000
    decide

/-- Settles O25: the rule that `buffer` does not select is not read, so its thresholds are free. -/
theorem exactlyOneRuleApplies : Obligations.ExactlyOneRuleApplies := by
  unfold Obligations.ExactlyOneRuleApplies
  intro t i
  refine ⟨?_, ?_, fun x y h => ?_, fun x y h => ?_, isSafe_eq_false_iff t i⟩
  · cases i.buffer <;> simp
  · rintro ⟨hp, hh⟩
    exact Buffer.noConfusion (hp.symm.trans hh)
  · exact isSafe_congr rfl rfl (fun _ => by cases i.motor <;> rfl) (fun hh => Buffer.noConfusion (h.symm.trans hh))
  · exact isSafe_congr rfl rfl (fun hp => Buffer.noConfusion (h.symm.trans hp)) (fun _ => by cases i.motor <;> rfl)

/-- Settles O26: no field but `motor`, `buffer` and `magnitude` is read, and here both motors have the same entries. -/
theorem safeIgnoresTheOtherFields : Obligations.SafeIgnoresTheOtherFields := by
  unfold Obligations.SafeIgnoresTheOtherFields
  refine ⟨fun t m b v e d e' d' => ?_, evalPorts_safe, fun t v e d s r => ?_, fun i m => ?_⟩
  · exact isSafe_congr rfl rfl (fun _ => rfl) (fun _ => rfl)
  · rw [evalPorts_safe, evalPorts_safe]
    exact congrArg BitVec.ofBool (isSafe_congr rfl rfl (fun _ => rfl) (fun _ => rfl))
  · exact isSafe_congr rfl rfl (fun _ => by simp) (fun _ => by simp)

/-- Settles O27: a motor's entry of the lookup is its own field of the record. -/
theorem thresholdIsLookedUpByMotor : Obligations.ThresholdIsLookedUpByMotor := by
  unfold Obligations.ThresholdIsLookedUpByMotor
  refine ⟨fun t x y e d b v => ?_, fun t x y e d b v => ?_, fun t e d v => ⟨?_, ?_, ?_, ?_⟩, rfl, rfl, rfl, rfl⟩
  · exact isSafe_congr rfl rfl (fun _ => rfl) (fun _ => rfl)
  · exact isSafe_congr rfl rfl (fun _ => rfl) (fun _ => rfl)
  · exact isSafe_iff_of_period t rfl
  · exact isSafe_iff_of_period t rfl
  · exact isSafe_iff_of_hightime t rfl
  · exact isSafe_iff_of_hightime t rfl

/-! ## A stop -/

/-- R59: no Period threshold is above 0xFFFF. -/
theorem isSafe_of_stop (t : Thresholds) {i : Intent} (hperiod : i.buffer = .period) (hmagnitude : i.magnitude = 0xFFFF) :
    isSafe t i = true := by
  rw [isSafe_iff_of_period t hperiod, hmagnitude]
  exact Nat.le_of_lt_succ (periodMin t i.motor).isLt

/-- R70, R71: `CRAFT.S` on a safe Intent completes with its frame. -/
theorem exec_craftS_of_isSafe {i : Intent} (h : isSafe thresholds i = true) (s : State) :
    exec (.craftS i) s = .next (deliver thresholds i (some (encodeFrame i)) s) := by
  have hframe : craftMessage thresholds i true = some (encodeFrame i) := by rw [craftMessage_true, if_pos h]
  rw [exec_eq_deliver, ← hframe]
  rfl

/-- Settles O28: a stop is safe under every setting, and a safe Intent is never declined. -/
theorem stopIsNeverDeclined : Obligations.StopIsNeverDeclined := by
  unfold Obligations.StopIsNeverDeclined
  intro t i hperiod hmagnitude
  have hsafe : ∀ t, isSafe t i = true := fun t => isSafe_of_stop t hperiod hmagnitude
  refine ⟨hsafe t, ?_, craftMessage_false t i, fun s => ⟨_, exec_craftS_of_isSafe (hsafe thresholds) s, rfl, ?_⟩⟩
  · rw [craftMessage_true, if_pos (hsafe t)]
  · rw [deliver_results, hsafe]

end Sys2Proof.Machine
end

section
/-! How many magnitudes each rule takes and leaves (40_safety_comparator.md R54, R55), for every setting of the
thresholds. -/

namespace Sys2Proof.Machine

/-! ## Counting below and from a bound -/

theorem card_filter_range_of_iff_lt {P : Nat → Prop} [DecidablePred P] {n k : Nat} (hk : k ≤ n)
    (hP : ∀ v < n, P v ↔ v < k) : ((Finset.range n).filter P).card = k := by
  have hset : (Finset.range n).filter P = Finset.range k := by
    ext v
    simp only [Finset.mem_filter, Finset.mem_range]
    exact ⟨fun ⟨hv, h⟩ => (hP v hv).1 h, fun h => ⟨by omega, (hP v (by omega)).2 h⟩⟩
  rw [hset, Finset.card_range]

theorem card_filter_range_of_iff_le {P : Nat → Prop} [DecidablePred P] {n k : Nat}
    (hP : ∀ v < n, P v ↔ k ≤ v) : ((Finset.range n).filter P).card = n - k := by
  have hset : (Finset.range n).filter P = Finset.Ico k n := by
    ext v
    simp only [Finset.mem_filter, Finset.mem_range, Finset.mem_Ico]
    exact ⟨fun ⟨hv, h⟩ => ⟨(hP v hv).1 h, hv⟩, fun ⟨h, hv⟩ => ⟨hv, (hP v hv).2 h⟩⟩
  rw [hset, Nat.card_Ico]

theorem magnitude_ofNat_toNat {v : Nat} (hv : v < 65536) : (BitVec.ofNat 16 v : Magnitude).toNat = v := by
  rw [BitVec.toNat_ofNat, Nat.mod_eq_of_lt hv]

/-! ## The counts of each rule -/

section Counts

variable (t : Thresholds) (m : Motor) (e : Enabled) (d : Direction)

theorem card_rejected_period : ((Finset.range 65536).filter
    (fun v => isSafe t ⟨m, e, d, .period, BitVec.ofNat 16 v⟩ = false)).card = (periodMin t m).toNat := by
  refine card_filter_range_of_iff_lt (Nat.le_of_lt (periodMin t m).isLt) fun v hv => ?_
  rw [isSafe_eq_false_iff_of_period t rfl, magnitude_ofNat_toNat hv]

theorem card_accepted_period : ((Finset.range 65536).filter
    (fun v => isSafe t ⟨m, e, d, .period, BitVec.ofNat 16 v⟩ = true)).card = 65536 - (periodMin t m).toNat := by
  refine card_filter_range_of_iff_le fun v hv => ?_
  rw [isSafe_iff_of_period t rfl, magnitude_ofNat_toNat hv]

theorem card_accepted_hightime : ((Finset.range 65536).filter
    (fun v => isSafe t ⟨m, e, d, .hightime, BitVec.ofNat 16 v⟩ = true)).card = (hightimeMax t m).toNat + 1 := by
  refine card_filter_range_of_iff_lt (hightimeMax t m).isLt fun v hv => ?_
  rw [isSafe_iff_of_hightime t rfl, magnitude_ofNat_toNat hv, Nat.lt_succ_iff]

theorem card_rejected_hightime : ((Finset.range 65536).filter
    (fun v => isSafe t ⟨m, e, d, .hightime, BitVec.ofNat 16 v⟩ = false)).card = 65536 - ((hightimeMax t m).toNat + 1) := by
  refine card_filter_range_of_iff_le fun v hv => ?_
  rw [isSafe_eq_false_iff_of_hightime t rfl, magnitude_ofNat_toNat hv, Nat.succ_le_iff]

end Counts

/-! ## The statements about the two rules -/

/-- Settles O23: the rule is a comparison with the entry, and the magnitudes below the entry are as many as it says. -/
theorem periodRuleIsAMinimum : Obligations.PeriodRuleIsAMinimum := by
  unfold Obligations.PeriodRuleIsAMinimum
  refine ⟨fun t i h => isSafe_eq_false_iff_of_period t h, fun t i h heq => ?_, fun m e d => ⟨?_, ?_⟩⟩
  · rw [isSafe_iff_of_period t h, heq]
  · rw [card_rejected_period, periodMin_thresholds]
    rfl
  · rw [card_accepted_period, periodMin_thresholds]
    rfl

/-- Settles O24: the rule is a comparison with the entry, and the magnitudes up to the entry are one more than it says. -/
theorem hightimeRuleIsAMaximum : Obligations.HightimeRuleIsAMaximum := by
  unfold Obligations.HightimeRuleIsAMaximum
  refine ⟨fun t i h => isSafe_eq_false_iff_of_hightime t h, fun t i h heq => ?_, fun m e d => ⟨?_, ?_⟩⟩
  · rw [isSafe_iff_of_hightime t h, heq]
  · rw [card_accepted_hightime, hightimeMax_thresholds]
    rfl
  · rw [card_rejected_hightime, hightimeMax_thresholds]
    rfl

end Sys2Proof.Machine
end

section
/-! The operands of the checksum (41_frame_encoder.md R61 to R63): the control nibble in each of its forms, and the payload
nibbles as bytes and as numbers. -/

namespace Sys2Proof.Machine

/-! ## The control nibble -/

/-- R61: the weight of each of the four bits. -/
theorem toNat_of_control_bits : ∀ d b e m : Bit,
    (zext8 (d ++ b ++ e ++ m)).toNat = m.toNat + 2 * e.toNat + 4 * b.toNat + 8 * d.toNat := by decide

/-- R61: the four bits as 8-bit operands, each shifted to its place. -/
theorem zext8_of_control_bits_eq_or : ∀ d b e m : Bit,
    zext8 (d ++ b ++ e ++ m) = (zext8 m ||| zext8 e <<< 1 ||| zext8 b <<< 2 ||| zext8 d <<< 3) := by decide

theorem zext8_nibble_toNat_le (n : Nibble) : (zext8 n).toNat ≤ 15 := by
  rw [zext8_nibble_toNat]
  omega

@[simp] theorem lowNibble_controlNibble (i : Intent) : lowNibble (controlNibble i) = controlBits i := by
  rw [controlNibble_eq_zext8, lowNibble_zext8]

/-- Settles O7: each form of the zero-extended control bits. -/
theorem controlNibbleIsTheFourBits : Obligations.ControlNibbleIsTheFourBits := by
  unfold Obligations.ControlNibbleIsTheFourBits
  intro i
  rw [controlNibble_eq_zext8]
  exact ⟨rfl, toNat_of_control_bits _ _ _ _, zext8_of_control_bits_eq_or _ _ _ _, zext8_nibble_toNat_le _, rfl⟩

/-! ## The payload -/

/-- R62: the payload bytes are copied, so their bits are those of the magnitude. -/
theorem getLsbD_highByte (v : Magnitude) {k : Nat} (hk : k < 8) : (highByte v).getLsbD k = v.getLsbD (8 + k) := by
  simp [highByte, hk]

theorem getLsbD_lowByte (v : Magnitude) {k : Nat} (hk : k < 8) : (lowByte v).getLsbD k = v.getLsbD k := by
  simp [lowByte, hk]

@[simp] theorem encodeFrame_b1 (i : Intent) : (encodeFrame i).b1 = highByte i.magnitude := rfl
@[simp] theorem encodeFrame_b2 (i : Intent) : (encodeFrame i).b2 = lowByte i.magnitude := rfl

/-- Settles O8: the payload bytes are the two halves of the magnitude. -/
theorem payloadIsTheMagnitudeUnchanged : Obligations.PayloadIsTheMagnitudeUnchanged := by
  unfold Obligations.PayloadIsTheMagnitudeUnchanged
  intro i
  rw [encodeFrame_b1, encodeFrame_b2]
  refine ⟨fun k hk => ⟨getLsbD_highByte _ hk, getLsbD_lowByte _ hk⟩, highByte_append_lowByte _, fun h => ?_⟩
  rw [h]
  exact ⟨rfl, rfl⟩

/-- Settles O9: the nibbles of a byte, and those of the magnitude through its two bytes. -/
theorem payloadNibbles : Obligations.PayloadNibbles := by
  unfold Obligations.PayloadNibbles
  intro v
  obtain ⟨h1, l1, h2, l2⟩ := nibbles_of_magnitude v
  refine ⟨h1, l1, h2, l2, fun b => ⟨highNibble_append_lowNibble b, ?_, ?_⟩, fun n => ⟨zext8_nibble_toNat n,
    zext8_nibble_toNat_le n⟩, rfl, rfl, rfl, rfl⟩
  · rw [zext8_nibble_toNat, highNibble_toNat]
  · rw [zext8_nibble_toNat, lowNibble_toNat]

end Sys2Proof.Machine
end

section
/-! `count` and the checksum nibble (41_frame_encoder.md R64 to R66, R75): the five masked nibbles, their sum in 8 bits, which
is their true sum, and its low nibble, which is their sum in 4 bits. -/

namespace Sys2Proof.Machine

/-! ## The five terms -/

/-- R64: the five terms `t0` to `t4`. -/
def maskedTerms (c0 b1 b2 : Byte) : List Byte :=
  [c0 ^^^ kC0, zext8 (highNibble b1) ^^^ kHi1, zext8 (lowNibble b1) ^^^ kLo1, zext8 (highNibble b2) ^^^ kHi2,
    zext8 (lowNibble b2) ^^^ kLo2]

/-- R65: `count` adds the terms one after another, from 0. -/
theorem foldl_maskedTerms (c0 b1 b2 : Byte) : (maskedTerms c0 b1 b2).foldl (· + ·) 0 = count c0 b1 b2 := by
  simp only [maskedTerms, List.foldl_cons, List.foldl_nil, BitVec.ofNat_eq_ofNat, BitVec.zero_add, count]

/-- R65: the 8-bit sum does not depend on the order of the terms. -/
theorem foldl_eq_count_of_perm {c0 b1 b2 : Byte} {ts : List Byte} (h : ts.Perm (maskedTerms c0 b1 b2)) :
    ts.foldl (· + ·) 0 = count c0 b1 b2 := by
  rw [h.foldl_eq, foldl_maskedTerms]

/-- R64: a control operand that is a nibble gives five terms of 4 bits. -/
theorem maskedTerms_le (n : Nibble) (b1 b2 : Byte) : ∀ x ∈ maskedTerms (zext8 n) b1 b2, x ≤ 15 := by
  have hmask : ∀ n k : Nibble, zext8 n ^^^ zext8 k ≤ 15 := masked_toNat_le
  simp only [maskedTerms, List.forall_mem_cons]
  exact ⟨hmask _ 0x9, hmask _ 0x4, hmask _ 0xD, hmask _ 0x2, hmask _ 0xA, List.forall_mem_nil _⟩

/-- R65: the wrapping sum wraps once at the end as well as at each addition. -/
theorem toNat_sum_of_five (a b c d e : Byte) :
    (a + b + c + d + e).toNat = (a.toNat + b.toNat + c.toNat + d.toNat + e.toNat) % 256 := by
  simp only [BitVec.toNat_add]
  omega

/-- Settles O10: the list of the five terms, its bound, its sum and its permutations. -/
theorem countSumsTheFiveMaskedNibbles : Obligations.CountSumsTheFiveMaskedNibbles := by
  unfold Obligations.CountSumsTheFiveMaskedNibbles
  rintro i _ _ _ _ _ rfl rfl rfl rfl rfl
  refine ⟨?_, toNat_sum_of_five _ _ _ _ _, fun ts => foldl_eq_count_of_perm, ?_⟩
  · have hle := maskedTerms_le (controlBits i) (highByte i.magnitude) (lowByte i.magnitude)
    rw [← controlNibble_eq_zext8] at hle
    simp only [maskedTerms, List.forall_mem_cons] at hle
    obtain ⟨h0, h1, h2, h3, h4, -⟩ := hle
    exact ⟨h0, h1, h2, h3, h4⟩
  · rintro rfl
    exact ⟨rfl, rfl⟩

/-! ## The true sum -/

/-- R75: the bound of the sum, five times that of a term. -/
theorem count_toNat_le (n : Nibble) (b1 b2 : Byte) : (count (zext8 n) b1 b2).toNat ≤ 75 := by
  have hle := maskedTerms_le n b1 b2
  simp only [maskedTerms, List.forall_mem_cons, BitVec.le_def] at hle
  obtain ⟨h0, h1, h2, h3, h4, -⟩ := hle
  have hfifteen : (15 : Byte).toNat = 15 := rfl
  rw [count_toNat]
  omega

/-- R63: the payload nibbles as digits of the magnitude. -/
theorem payload_nibbles_toNat (v : Magnitude) :
    (highNibble (highByte v)).toNat = v.toNat / 4096 ∧ (lowNibble (highByte v)).toNat = v.toNat / 256 % 16 ∧
      (highNibble (lowByte v)).toNat = v.toNat / 16 % 16 ∧ (lowNibble (lowByte v)).toNat = v.toNat % 16 := by
  rw [highNibble_toNat, lowNibble_toNat, highNibble_toNat, lowNibble_toNat, highByte_toNat, lowByte_toNat]
  exact ⟨by omega, rfl, by omega, by omega⟩

/-- Settles O16: `count` is the sum of its terms as numbers, each of which is a digit XORed with its mask. -/
theorem countNeverWraps : Obligations.CountNeverWraps := by
  unfold Obligations.CountNeverWraps
  refine ⟨?_, rfl, rfl⟩
  rintro i n rfl
  obtain ⟨h1, l1, h2, l2⟩ := payload_nibbles_toNat i.magnitude
  have hsum := count_toNat (controlBits i) (highByte i.magnitude) (lowByte i.magnitude)
  have hle := count_toNat_le (controlBits i) (highByte i.magnitude) (lowByte i.magnitude)
  rw [← controlNibble_eq_zext8] at hsum hle
  simp only [BitVec.toNat_xor, zext8_nibble_toNat, h1, l1, h2, l2] at hsum
  rw [chk_toNat, hsum]
  rw [hsum] at hle
  exact ⟨hle, rfl, rfl⟩

/-! ## The checksum nibble -/

theorem lowNibble_and_mask : ∀ b : Byte, lowNibble (b &&& 0xF) = lowNibble b := by decide

theorem zext8_lowNibble : ∀ b : Byte, zext8 (lowNibble b) = b &&& 0xF := by decide

/-- R66: `count & 0xF` is `count[3:0]`. -/
theorem chk_eq_lowNibble (c0 b1 b2 : Byte) : chk c0 b1 b2 = lowNibble (count c0 b1 b2) := lowNibble_and_mask _

/-- Settles O11: the checksum nibble as the low nibble of `count`. -/
theorem checksumIsTheLowNibbleOfCount : Obligations.ChecksumIsTheLowNibbleOfCount := by
  unfold Obligations.ChecksumIsTheLowNibbleOfCount
  intro c0 b1 b2
  refine ⟨?_, chk_eq_lowNibble c0 b1 b2, chk_toNat c0 b1 b2, by omega, chk_eq_lowNibble c0 b1 b2, fun h => ?_⟩
  · rw [chk_eq_lowNibble, zext8_lowNibble]
  · rw [chk_eq_lowNibble, h]
    rfl

/-! ## Byte 0 and the whole frame -/

/-- R67: control nibble and shifted checksum nibble share no bit. -/
theorem zext8_or_shifted_nibble : ∀ n k : Nibble, zext8 n ||| zext8 k <<< 4 = k ++ n := by decide

theorem zext8_add_shifted_nibble_lt : ∀ n k : Nibble, (zext8 n).toNat + (zext8 k <<< 4).toNat < 256 := by decide

/-- Settles O12: sum and OR are both the concatenation that `encodeFrame_b0` states. -/
theorem controlByteIsChecksumAboveControl : Obligations.ControlByteIsChecksumAboveControl := by
  unfold Obligations.ControlByteIsChecksumAboveControl
  rintro i k hk
  have hcat : (encodeFrame i).b0 = k ++ controlBits i := by rw [encodeFrame_b0, hk]
  refine ⟨by rw [hk]; rfl, ?_, ?_, ?_, fun hc0 hk4 => ?_⟩
  · rw [controlNibble_eq_zext8]
    exact zext8_add_shifted_nibble_lt _ _
  · rw [hcat, controlNibble_eq_zext8, zext8_or_shifted_nibble]
  · rw [hcat, ← lowNibble_controlNibble]
    rfl
  · rw [hcat, ← lowNibble_controlNibble, hc0, hk4]
    rfl

/-- Settles O14: the pseudocode, line by line, is `assemble` on the concatenated control bits. -/
theorem encodeFollowsItsPseudocode : Obligations.EncodeFollowsItsPseudocode := by
  unfold Obligations.EncodeFollowsItsPseudocode
  refine ⟨?_, by decide⟩
  rintro i _ _ _ _ _ rfl rfl rfl rfl rfl
  refine ⟨?_, count_toNat_le (controlBits i) (highByte i.magnitude) (lowByte i.magnitude)⟩
  rw [encodeFrame, controlNibble_eq_zext8, assemble, controlByte, chk_eq_lowNibble]
  rfl

end Sys2Proof.Machine
end

section
/-! What a frame tells apart (41_frame_encoder.md R76, R77): its Intent, and one changed nibble from none, since the checksum,
as a sum of masked nibbles in 4 bits, changes with each of them whatever the four others are. -/

namespace Sys2Proof.Machine

/-- Settles O17: the Intent stands in its frame. -/
theorem encodeIsInjective : Obligations.EncodeIsInjective := by
  unfold Obligations.EncodeIsInjective
  refine ⟨readBack_encodeFrame, fun i j h => ?_⟩
  rw [← readBack_encodeFrame i, h, readBack_encodeFrame]

/-! ## The checksum in 4 bits -/

/-- R64, R66: the checksum as a sum of nibbles, which drops the carries that `count & 0xF` drops. -/
def nibbleSum (c h1 l1 h2 l2 : Nibble) : Nibble := (c ^^^ 0x9) + (h1 ^^^ 0x4) + (l1 ^^^ 0xD) + (h2 ^^^ 0x2) + (l2 ^^^ 0xA)

theorem lowNibble_add (a b : Byte) : lowNibble (a + b) = lowNibble a + lowNibble b := by
  simp only [lowNibble, ← BitVec.setWidth_eq_extractLsb' (show 4 ≤ 8 by decide)]
  exact BitVec.setWidth_add a b (by decide)

theorem lowNibble_xor (a b : Byte) : lowNibble (a ^^^ b) = lowNibble a ^^^ lowNibble b := BitVec.extractLsb'_xor

theorem chk_eq_nibbleSum (c0 b1 b2 : Byte) : chk c0 b1 b2 =
    nibbleSum (lowNibble c0) (highNibble b1) (lowNibble b1) (highNibble b2) (lowNibble b2) := by
  rw [chk_eq_lowNibble, count]
  simp only [lowNibble_add, lowNibble_xor, lowNibble_zext8]
  rfl

/-- R49: a `FRAME24` value is valid when its top nibble is the sum of the five below it. -/
theorem validFrame_frameOf24_iff (w : BitVec 24) : validFrame (frameOf24 w) = true ↔ w.extractLsb' 20 4 =
    nibbleSum (w.extractLsb' 16 4) (w.extractLsb' 12 4) (w.extractLsb' 8 4) (w.extractLsb' 4 4) (w.extractLsb' 0 4) := by
  obtain ⟨n0, n1, n2, n3, n4, n5⟩ := nibbles_of_frame24 (frameOf24 w)
  rw [frame24_frameOf24] at n0 n1 n2 n3 n4 n5
  rw [validFrame_iff, chk_eq_nibbleSum, lowNibble_zext8, n0, n1, n2, n3, n4, n5]

theorem xor_eq_self_iff : ∀ n d : Nibble, n ^^^ d = n ↔ d = 0 := by decide

/-- R77: the sum changes with any one of its nibbles: a non-zero change passes through the mask and through the sum with
the four others. -/
theorem nibbleSum_one_changed (c h1 l1 h2 l2 d : Nibble) :
    (nibbleSum c h1 l1 h2 l2 = nibbleSum (c ^^^ d) h1 l1 h2 l2 ↔ d = 0) ∧
    (nibbleSum c h1 l1 h2 l2 = nibbleSum c (h1 ^^^ d) l1 h2 l2 ↔ d = 0) ∧
    (nibbleSum c h1 l1 h2 l2 = nibbleSum c h1 (l1 ^^^ d) h2 l2 ↔ d = 0) ∧
    (nibbleSum c h1 l1 h2 l2 = nibbleSum c h1 l1 (h2 ^^^ d) l2 ↔ d = 0) ∧
    (nibbleSum c h1 l1 h2 l2 = nibbleSum c h1 l1 h2 (l2 ^^^ d) ↔ d = 0) := by
  simp only [nibbleSum, add_left_inj, add_right_inj, BitVec.xor_left_inj, eq_comm (b := _ ^^^ d), xor_eq_self_iff, and_self]

/-! ## Changed nibbles -/

/-- A nibble put at place `k` of a `FRAME24` value is nibble `k` of it, and every other nibble is 0. -/
theorem extractLsb'_nibble_at (d : Nibble) {j k : Nat} (hk : k < 6) :
    (d.setWidth 24 <<< (4 * k)).extractLsb' (4 * j) 4 = if j = k then d else 0 := by
  apply BitVec.eq_of_getLsbD_eq
  intro i hi
  rw [BitVec.getLsbD_extractLsb', BitVec.getLsbD_shiftLeft, BitVec.getLsbD_setWidth]
  rcases lt_trichotomy j k with hlt | rfl | hgt
  · have hbelow : 4 * j + i < 4 * k := by omega
    simp [hbelow, hlt.ne]
  · have hinside : 4 * j + i < 24 := by omega
    have hwide : i < 24 := by omega
    simp [hi, hinside, hwide]
  · have habove : d.getLsbD (4 * j + i - 4 * k) = false := BitVec.getLsbD_of_ge _ _ (by omega)
    simp [habove, hgt.ne']

/-- A change of nibble `k` reaches nibble `k` and no other. -/
theorem extractLsb'_change_nibble (w : BitVec 24) (d : Nibble) {k : Nat} (hk : k < 6) (j : Nat) :
    (w ^^^ (d.setWidth 24 <<< (4 * k))).extractLsb' (4 * j) 4 = w.extractLsb' (4 * j) 4 ^^^ if j = k then d else 0 := by
  rw [BitVec.extractLsb'_xor, extractLsb'_nibble_at d hk]

/-- Settles O21: one changed nibble changes one side of the checksum equation; two changes of 1 cancel. -/
theorem oneChangedNibbleIsDetected : Obligations.OneChangedNibbleIsDetected := by
  unfold Obligations.OneChangedNibbleIsDetected
  refine ⟨fun w hw k hk d hd => ?_, 0x4A00C8, 5, by decide, 0, by decide, by decide, 1, 1, by decide⟩
  rw [← Bool.not_eq_true, validFrame_frameOf24_iff]
  rw [validFrame_frameOf24_iff] at hw
  have hnibble := extractLsb'_change_nibble w d hk
  rw [hnibble 0, hnibble 1, hnibble 2, hnibble 3, hnibble 4, hnibble 5, hw]
  obtain ⟨hc, hh1, hl1, hh2, hl2⟩ := nibbleSum_one_changed (w.extractLsb' 16 4) (w.extractLsb' 12 4) (w.extractLsb' 8 4)
    (w.extractLsb' 4 4) (w.extractLsb' 0 4) d
  refine fun h => hd ?_
  interval_cases k
  · simpa [hl2] using h
  · simpa [hh2] using h
  · simpa [hl1] using h
  · simpa [hh1] using h
  · simpa [hc] using h
  · simpa [xor_eq_self_iff] using h

/-! ## The frequency of each checksum value -/

/-- Counting numbers below `b * n` by their last digit in base `b`, when one digit is right below each other part. -/
theorem card_filter_range_mul_of_iff {P : Nat → Prop} [DecidablePred P] {b n : Nat} (g : Nat → Nat) (hg : ∀ q, g q < b)
    (hP : ∀ q < n, ∀ r < b, P (b * q + r) ↔ r = g q) : ((Finset.range (b * n)).filter P).card = n := by
  refine (Finset.card_bij' (t := Finset.range n) (fun m _ => m / b) (fun q _ => b * q + g q) (fun m hm => ?_)
    (fun q hq => ?_) (fun m hm => ?_) (fun q hq => ?_)).trans (Finset.card_range n)
  · obtain ⟨hmn, -⟩ := Finset.mem_filter.1 hm
    exact Finset.mem_range.2 (Nat.div_lt_of_lt_mul (Finset.mem_range.1 hmn))
  · have hqn := Finset.mem_range.1 hq
    refine Finset.mem_filter.2 ⟨Finset.mem_range.2 ?_, (hP q hqn _ (hg q)).2 rfl⟩
    calc b * q + g q < b * q + b := Nat.add_lt_add_left (hg q) _
      _ ≤ b * n := Nat.mul_le_mul_left b hqn
  · obtain ⟨hmn, hPm⟩ := Finset.mem_filter.1 hm
    have hq := Nat.div_lt_of_lt_mul (Finset.mem_range.1 hmn)
    rw [← Nat.div_add_mod m b, hP _ hq _ (Nat.mod_lt _ (Nat.zero_lt_of_lt (hg 0)))] at hPm
    rw [← hPm, Nat.div_add_mod]
  · exact (Nat.mul_add_div (Nat.zero_lt_of_lt (hg 0)) q (g q)).trans (by rw [Nat.div_eq_of_lt (hg q), Nat.add_zero])

/-- R42, R66: the checksum of the Intent in a request word, from the five nibbles of `REQ[19:0]`. -/
theorem checksum_of_intentOfRequest (w : ReqWord) : highNibble (encodeFrame (intentOfRequest w)).b0 =
    nibbleSum (w.extractLsb' 16 4) (w.extractLsb' 12 4) (w.extractLsb' 8 4) (w.extractLsb' 4 4) (w.extractLsb' 0 4) := by
  have hcontrol := controlBits_of_requestOf (driveWord w 0)
  rw [requestOf_driveWord, intentOf_driveWord] at hcontrol
  obtain ⟨h1, l1, h2, l2⟩ := nibbles_of_magnitude (intentOfRequest w).magnitude
  rw [encodeFrame_b0, highNibble_append, chk_eq_nibbleSum, lowNibble_controlNibble, ← hcontrol, h1, l1, h2, l2]
  simp [intentOfRequest, extractLsb'_extractLsb']

/-- A number as its last hexadecimal digit below the rest of it. -/
theorem ofNat_eq_append_nibble (q : Nat) {r : Nat} (hr : r < 16) :
    (BitVec.ofNat 21 (16 * q + r) : ReqWord) = BitVec.ofNat 17 q ++ BitVec.ofNat 4 r := by
  apply BitVec.eq_of_toNat_eq
  rw [BitVec.toNat_append, BitVec.toNat_ofNat, BitVec.toNat_ofNat, BitVec.toNat_ofNat,
    ← Nat.shiftLeft_add_eq_or_of_lt (by omega), Nat.shiftLeft_eq]
  omega

/-- Under its own mask the last nibble is 0, so that the sum is that of the four others. -/
theorem nibbleSum_eq_add_last (c h1 l1 h2 l2 : Nibble) :
    nibbleSum c h1 l1 h2 l2 = nibbleSum c h1 l1 h2 0xA + (l2 ^^^ 0xA) := by
  simp [nibbleSum]

/-- R76: the last nibble that completes the seventeen upper bits of a request word to the checksum `k`. -/
def lastNibbleFor (k : Nibble) (x : BitVec 17) : Nibble :=
  (k - nibbleSum (x.extractLsb' 12 4) (x.extractLsb' 8 4) (x.extractLsb' 4 4) (x.extractLsb' 0 4) 0xA) ^^^ 0xA

/-- R76: below any seventeen upper bits each checksum stands for one last nibble, since the others only shift the sum. -/
theorem checksum_eq_iff_last_nibble (k : Nibble) (x : BitVec 17) (y : Nibble) :
    highNibble (encodeFrame (intentOfRequest (x ++ y))).b0 = k ↔ y = lastNibbleFor k x := by
  have hlow : (x ++ y).extractLsb' 0 4 = y := BitVec.extractLsb'_append_eq_right
  have hupper : ∀ j, 4 ≤ j → (x ++ y).extractLsb' j 4 = x.extractLsb' (j - 4) 4 :=
    fun j hj => BitVec.extractLsb'_append_eq_of_le hj
  have hunmask : ∀ s : Nibble, y ^^^ 0xA = s ↔ y = s ^^^ 0xA := fun s => by
    rw [← BitVec.xor_left_inj 0xA, BitVec.xor_assoc, BitVec.xor_self, BitVec.xor_zero]
  rw [checksum_of_intentOfRequest, hlow, hupper 16 (by omega), hupper 12 (by omega), hupper 8 (by omega),
    hupper 4 (by omega), nibbleSum_eq_add_last, add_comm, ← eq_sub_iff_add_eq, hunmask]
  rfl

/-- Settles O20: of the sixteen words below each of the 65536 upper parts, one has the checksum `k`. -/
theorem checksumValuesAreEquallyFrequent : Obligations.ChecksumValuesAreEquallyFrequent := by
  unfold Obligations.ChecksumValuesAreEquallyFrequent
  intro k
  rw [show 2 ^ 20 = 16 * 65536 from rfl]
  refine card_filter_range_mul_of_iff (b := 16) (fun q => (lastNibbleFor k (BitVec.ofNat 17 q)).toNat)
    (fun q => BitVec.isLt _) fun q _ r hr => ?_
  rw [ofNat_eq_append_nibble q hr]
  refine (checksum_eq_iff_last_nibble k _ _).trans ?_
  rw [← BitVec.toNat_inj, BitVec.toNat_ofNat, Nat.mod_eq_of_lt hr]

end Sys2Proof.Machine
end

section
/-! `craft_message` (41_frame_encoder.md R69 to R73): its two results, what each shows on the ports, and the two request forms
that deliver it. -/

namespace Sys2Proof.Machine

/-! ## The two results -/

theorem craftMessage_of_isSafe {t : Thresholds} {i : Intent} (h : isSafe t i = true) (e : Bool) :
    craftMessage t i e = some (encodeFrame i) := by
  simp [craftMessage, declines, h]

theorem craftMessage_true_of_not_safe {t : Thresholds} {i : Intent} (h : isSafe t i = false) : craftMessage t i true = none := by
  simp [craftMessage, declines, h]

theorem craftMessage_true_eq_none_iff (t : Thresholds) (i : Intent) : craftMessage t i true = none ↔ isSafe t i = false := by
  cases h : isSafe t i with
  | false => simp [craftMessage_true_of_not_safe h]
  | true => simp [craftMessage_of_isSafe h]

/-- R72: the thresholds are read by the predicate alone. -/
theorem craftMessage_congr {t t' : Thresholds} {i : Intent} (h : isSafe t' i = isSafe t i) (e : Bool) :
    craftMessage t' i e = craftMessage t i e := by
  rw [craftMessage, declines, h]
  rfl

/-- Settles O33: for a safe Intent both forms give the frame; an answer is a delivery, which reads nothing of the state. -/
theorem checkedAndUncheckedAgree : Obligations.CheckedAndUncheckedAgree := by
  unfold Obligations.CheckedAndUncheckedAgree
  intro t i
  refine ⟨fun h => ⟨?_, craftMessage_of_isSafe h true⟩, fun f h => ?_, craftMessage_true_eq_none_iff t i,
    Option.some_ne_none _, fun t' e h => craftMessage_congr h e, fun x a b a' b' ha hb => ?_⟩
  · rw [craftMessage_of_isSafe h, craftMessage_of_isSafe h]
  · rw [craftMessage_true, Option.ite_none_right_eq_some] at h
    obtain ⟨-, hf⟩ := h
    rw [craftMessage_false, hf]
  · rw [eq_deliver_of_exec ha, eq_deliver_of_exec hb]
    simp

/-! ## The ports -/

/-- R71: with a request the ports show the result of `craft_message`. -/
theorem evalPorts_of_request (t : Thresholds) {v : Inputs} (hv : v.reqValid = 1) :
    evalPorts t v = outputsOf t (intentOf v) (craftMessage t (intentOf v) (v.enforceSafety == 1)) := by
  rw [evalPorts_eq_outputsOf, gatedFrame_of_request t hv]

/-- R71: the decline of the bits `req_valid`, `enforce_safety` and `safe` is a request that does not pass the gate. -/
theorem decline_eq_one_iff : ∀ r e s : Bit, r &&& e &&& ~~~ s = 1 ↔ r = 1 ∧ r &&& (~~~ e ||| s) = 0 := by decide

theorem declinePort_eq_one_iff (t : Thresholds) (v : Inputs) :
    declinePort t v = 1 ↔ v.reqValid = 1 ∧ (evalPorts t v).frameValid = 0 := decline_eq_one_iff _ _ _

theorem outputsOf_frameValid_eq_zero_iff (t : Thresholds) (i : Intent) (r : Option Frame) :
    (outputsOf t i r).frameValid = 0 ↔ r = none := by
  rw [outputsOf, ofBool_eq_zero, Option.isSome_eq_false_iff, Option.isNone_iff_eq_none]

/-- Settles O29: with a request by `evalPorts_of_request`, and without a frame by the closed gate. -/
theorem portsAgreeWithTheFunctions : Obligations.PortsAgreeWithTheFunctions := by
  unfold Obligations.PortsAgreeWithTheFunctions
  intro t v
  refine ⟨evalPorts_safe t v, rfl, rfl, evalPorts_frameValid_of_idle t, fun hv => ?_, fun f hv hf => ?_, fun h => ?_,
    declinePort_eq_one_iff t v, ?_⟩
  · rw [evalPorts_of_request t hv]
    exact ofBool_eq_one _
  · rw [evalPorts_of_request t hv, hf]
    exact ⟨rfl, rfl, rfl⟩
  · have hclosed : ¬ (evalPorts t v).frameValid = 1 := by rw [h]; decide
    rw [evalPorts_eq_outputsOf, gatedFrame_of_not_valid hclosed]
    exact ⟨rfl, rfl, rfl⟩
  · rw [declinePort_eq_one_iff]
    refine and_congr_right fun hv => ?_
    rw [evalPorts_of_request t hv, outputsOf_frameValid_eq_zero_iff]

/-! ## The two request forms -/

/-- R70, R80: `CRAFT.S` on an Intent that is not safe completes without a frame. -/
theorem exec_craftS_of_not_safe {i : Intent} (h : isSafe thresholds i = false) (s : State) :
    exec (.craftS i) s = .next (deliver thresholds i none s) := by
  rw [← craftMessage_true_of_not_safe h]
  rfl

theorem ofBool_eq_ite (b : Bool) : BitVec.ofBool b = if b then 1 else 0 := by cases b <;> rfl

/-- Settles O35: the delivery of the encoded frame. -/
theorem craftUAlwaysProducesTheFrame : Obligations.CraftUAlwaysProducesTheFrame := by
  unfold Obligations.CraftUAlwaysProducesTheFrame
  refine ⟨craftMessage_false, fun i => ?_, fun i s => ?_, by decide, by decide⟩
  · obtain ⟨hs, -⟩ := fields_of_encode (.craftU i)
    exact getLsbD_of_extractLsb'_one (b := false) hs
  · rw [← ofBool_eq_ite]
    rfl

/-- Settles O36: the delivery in the two cases of the predicate, and the predicate at its boundaries. -/
theorem craftSProducesTheFrameIffSafe : Obligations.CraftSProducesTheFrameIffSafe := by
  unfold Obligations.CraftSProducesTheFrameIffSafe
  refine ⟨craftMessage_true, fun i => ?_, fun i s h => ?_, fun i s h => ?_, fun m e d => ?_, by decide, by decide⟩
  · obtain ⟨hs, -⟩ := fields_of_encode (.craftS i)
    exact getLsbD_of_extractLsb'_one (b := true) hs
  · rw [exec_craftS_of_isSafe h, deliver, outputsOf, h]
    rfl
  · rw [exec_craftS_of_not_safe h, deliver, outputsOf, h]
    rfl
  · rw [isSafe_iff_of_period _ rfl, isSafe_eq_false_iff_of_period _ rfl, isSafe_iff_of_hightime _ rfl,
      isSafe_eq_false_iff_of_hightime _ rfl, periodMin_thresholds, hightimeMax_thresholds]
    show 150 ≤ 150 ∧ 149 < 150 ∧ 50 ≤ 50 ∧ 50 < 51
    decide

/-! ## The two outcomes -/

@[simp] theorem outcome_of_some (b : Bool) (f : Frame) : (⟨b, some f⟩ : Result).outcome = .frame f := rfl
@[simp] theorem outcome_of_none (b : Bool) : (⟨b, none⟩ : Result).outcome = .declined := rfl

/-- R82: an instruction's result is its frame, except the decline of `CRAFT.S` on an Intent that is not safe. -/
theorem craftMessage_of_instr_cases (x : Instr) :
    (craftMessage thresholds x.intent (x.opcodeBit == 1) = some (encodeFrame x.intent) ∧
      ¬ (x = .craftS x.intent ∧ isSafe thresholds x.intent = false)) ∨
    (craftMessage thresholds x.intent (x.opcodeBit == 1) = none ∧
      x = .craftS x.intent ∧ isSafe thresholds x.intent = false) := by
  cases x with
  | craftU i => exact .inl ⟨rfl, fun ⟨hform, _⟩ => Instr.noConfusion hform⟩
  | craftS i =>
    cases h : isSafe thresholds i with
    | true => exact .inl ⟨craftMessage_of_isSafe h _, fun ⟨_, hunsafe⟩ => Bool.noConfusion (h.symm.trans hunsafe)⟩
    | false => exact .inr ⟨craftMessage_true_of_not_safe h, rfl, h⟩

/-- Settles O38: the delivered result in each of its two cases. -/
theorem onlyTwoOutcomes : Obligations.OnlyTwoOutcomes := by
  unfold Obligations.OnlyTwoOutcomes
  intro x s
  refine ⟨_, _, exec_eq_deliver x s, deliver_results _ _ _ _, ?_⟩
  obtain ⟨hframe, hkept⟩ | ⟨hnone, hform, hunsafe⟩ := craftMessage_of_instr_cases x
  · rw [hframe, outcome_of_some]
    refine ⟨.inl rfl, ⟨nofun, fun h => absurd h hkept⟩, nofun, fun f hf => ?_⟩
    cases hf
    rfl
  · rw [hnone, outcome_of_none]
    refine ⟨.inr rfl, ⟨fun _ => ⟨hform, hunsafe⟩, fun _ => rfl⟩, fun _ => ?_, nofun⟩
    rw [deliver_outputs, outputsOf, hunsafe]
    rfl

end Sys2Proof.Machine
end

section
/-! No exception and no trace of a decline (60_exceptions.md R79, R80, R86): every run as an iterate of the next state, and the
step and the bytes of a declined request. -/

namespace Sys2Proof.Machine

/-! ## Runs that never stop -/

/-- R79: a run of any length goes on, one next state after the other. -/
theorem run_eq_iterate_nextState (n : Nat) (s : State) : core.run n s = .next (nextState^[n] s) := by
  induction n generalizing s with
  | zero => rfl
  | succ n ih =>
    calc core.run (n + 1) s = core.run n (nextState s) := run_succ_of_step (step_eq_nextState s) n
      _ = .next (nextState^[n + 1] s) := by rw [ih, Function.iterate_succ_apply]

/-- Settles O41: the next state of a step, and its iterate for a run. -/
theorem noStepEverStops : Obligations.NoStepEverStops := by
  unfold Obligations.NoStepEverStops
  exact ⟨fun s => ⟨nextState s, step_eq_nextState s⟩, fun n s => ⟨nextState^[n] s, run_eq_iterate_nextState n s⟩⟩

/-! ## A decline -/

/-- R80: `CRAFT.S` presented first on an Intent that is not safe is delivered without a frame; what was pending still is. -/
theorem step_of_declined {i : Intent} (h : isSafe thresholds i = false) (s : State) :
    step { s with pending := presentation (.craftS i) :: s.pending } =
      .next (deliver thresholds i none { s with inputs := presentation (.craftS i) }) := by
  rw [stepRunsThePresentedRequest _ _ _ rfl (reqValid_presentation _), requestOf_presentation, decodeRequest_encode,
    exec_craftS_of_not_safe h]

/-- R71: the ports of a decline. -/
theorem outputsOf_declined {t : Thresholds} {i : Intent} (h : isSafe t i = false) :
    outputsOf t i none = ⟨0, 0, 0x00, 0x00, 0x00⟩ := by
  rw [outputsOf, h]
  rfl

theorem byteStream_append (rs qs : List Result) : byteStream (rs ++ qs) = byteStream rs ++ byteStream qs :=
  List.flatMap_append

/-- R35: "on rejection produces no bytes". -/
theorem byteStream_append_declined (rs : List Result) (b : Bool) : byteStream (rs ++ [⟨b, none⟩]) = byteStream rs := by
  have hnone : byteStream [⟨b, none⟩] = [] := rfl
  rw [byteStream_append, hnone, List.append_nil]

/-- R13, R38: states with the same pending vectors and the same bytes so far agree, after the next vector, on the ports, on
what is pending and on the bytes. -/
theorem step_agrees_of_same_pending {s t s' t' : State} {v : Inputs} {ps : List Inputs} (hstep : step s = .next s')
    (htep : step t = .next t') (hs : s.pending = v :: ps) (ht : t.pending = v :: ps)
    (hbytes : byteStream s.results = byteStream t.results) :
    s'.inputs = t'.inputs ∧ s'.outputs = t'.outputs ∧ s'.pending = t'.pending ∧
      byteStream s'.results = byteStream t'.results := by
  rw [step_of_presented hs] at hstep
  rw [step_of_presented ht] at htep
  cases hstep
  cases htep
  exact ⟨rfl, rfl, rfl, by rw [byteStream_append, byteStream_append, hbytes]⟩

theorem step_of_run_one {s s' : State} (h : core.run 1 s = .next s') : step s = .next s' := by
  rw [run_succ_of_step (step_eq_nextState s)] at h
  exact (step_eq_nextState s).trans h

/-- Settles O51: the declined step leaves the pending vectors and the byte stream, and no more than these reaches what the
next step is compared on. -/
theorem declineLeavesNothingBehind : Obligations.DeclineLeavesNothingBehind := by
  unfold Obligations.DeclineLeavesNothingBehind
  intro i hunsafe s
  have hdecline := step_of_declined hunsafe s
  have hbytes := byteStream_append_declined s.results (isSafe thresholds i)
  refine ⟨⟨_, hdecline, outputsOf_declined hunsafe, hbytes, rfl⟩, fun a b v ps hp ha hb => ?_⟩
  rw [run_succ_of_step hdecline] at ha
  exact step_agrees_of_same_pending (step_of_run_one ha) (step_of_run_one hb) hp hp hbytes

end Sys2Proof.Machine
end

section
/-! Reset and the idle block (70_reset_and_hazards.md R93, R94, R102): the ports without a request, and the vector that is
held. -/

namespace Sys2Proof.Machine

/-! ## Without a request -/

/-- R71, R94: without a request the gate is closed and `safe` alone follows the Intent ports. -/
theorem evalPorts_of_idle (t : Thresholds) {v : Inputs} (hv : v.reqValid = 0) :
    evalPorts t v = ⟨BitVec.ofBool (isSafe t (intentOf v)), 0, 0x00, 0x00, 0x00⟩ := by
  have hclosed : ¬ (evalPorts t v).frameValid = 1 := by rw [evalPorts_frameValid_of_idle t hv]; decide
  rw [evalPorts_eq_outputsOf, gatedFrame_of_not_valid hclosed]
  rfl

/-- Settles O43: the ports at reset are those of an idle block, and the record is empty. -/
theorem resetMeetsTheInvariant : Obligations.ResetMeetsTheInvariant := by
  unfold Obligations.ResetMeetsTheInvariant
  have hidle : State.reset.inputs.reqValid = 0 := rfl
  refine ⟨?_, fun r hr => absurd hr List.not_mem_nil⟩
  rw [Settled, evalPorts_of_idle thresholds hidle]
  rfl

/-- Settles O44: the vector without a request, presented or held, shows the idle ports and has no result. -/
theorem outputsWhileNoRequestIsPresented : Obligations.OutputsWhileNoRequestIsPresented := by
  unfold Obligations.OutputsWhileNoRequestIsPresented
  refine ⟨fun s s' v hv hstep => ?_, fun s s' hp hv hstep => ?_, by decide⟩
  · rw [step_of_presented rfl, resultOf_of_idle thresholds hv, Option.toList_none, List.append_nil] at hstep
    cases hstep
    exact ⟨evalPorts_of_idle thresholds hv, rfl, rfl⟩
  · rw [step_of_hold hp] at hstep
    cases hstep
    exact ⟨evalPorts_of_idle thresholds hv, rfl⟩

/-! ## A held vector -/

theorem settle_of_settled {t : Thresholds} {s : State} (h : Settled t s) : settle t s = s := by
  have houtputs : evalPorts t s.inputs = s.outputs := h.symm
  rw [settle, houtputs]

/-- A state that its own step gives back is given back by every run. -/
theorem run_of_step_self {s : State} (h : step s = .next s) (n : Nat) : core.run n s = .next s := by
  have hfixed : nextState s = s := Host.Outcome.next.inj ((step_eq_nextState s).symm.trans h)
  rw [run_eq_iterate_nextState, Function.iterate_fixed hfixed]

/-- Settles O45: with nothing pending a step only settles, and a settled state is settled already. -/
theorem heldRequestIsOneTransaction : Obligations.HeldRequestIsOneTransaction := by
  unfold Obligations.HeldRequestIsOneTransaction
  refine ⟨fun s n hp hsettled => run_of_step_self ?_ n, fun s s' hp hstep => ?_⟩
  · rw [step_of_hold hp, settle_of_settled hsettled]
  · rw [step_of_hold hp] at hstep
    cases hstep
    exact ⟨rfl, rfl, hp⟩

end Sys2Proof.Machine
end

section
/-! A command source that ties `enforce_safety` to 1 (70_reset_and_hazards.md R100), and the bypass
(60_exceptions.md R87). -/

namespace Sys2Proof.Machine

/-! ## The enforced run -/

/-- R70: the form that enforces safety gives no frame but that of a safe Intent. -/
theorem isSafe_readBack_of_craftMessage_true {t : Thresholds} {i : Intent} {f : Frame}
    (h : craftMessage t i true = some f) : isSafe t (readBack f) = true := by
  rw [craftMessage_true, Option.ite_none_right_eq_some] at h
  obtain ⟨hsafe, hframe⟩ := h
  cases hframe
  rwa [readBack_encodeFrame]

theorem isSafe_readBack_of_resultOf {t : Thresholds} {v : Inputs} {r : Result} {f : Frame}
    (henforced : v.reqValid = 1 → v.enforceSafety = 1) (hr : resultOf t v = some r) (hf : r.frame = some f) :
    isSafe t (readBack f) = true := by
  rcases bit_cases v.reqValid with h0 | h1
  · rw [resultOf_of_idle t h0] at hr
    cases hr
  · rw [resultOf_of_request t h1, henforced h1] at hr
    cases hr
    exact isSafe_readBack_of_craftMessage_true hf

theorem pending_of_step {s s' : State} (h : step s = .next s') : s'.pending = s.pending.tail := by
  match hp : s.pending with
  | [] =>
    rw [step_of_hold hp] at h
    cases h
    exact hp
  | v :: rest =>
    rw [step_of_presented hp] at h
    cases h
    rfl

/-- What a step adds to the record is the result of the vector that was pending first. -/
theorem results_of_step {s s' : State} (h : step s = .next s') :
    s'.results = s.results ++ (s.pending.head?.bind (resultOf thresholds)).toList := by
  match hp : s.pending with
  | [] =>
    rw [step_of_hold hp] at h
    cases h
    exact (List.append_nil _).symm
  | v :: rest =>
    rw [step_of_presented hp] at h
    cases h
    rfl

/-- R100, the invariant of an enforced run: the caller enforces safety from here on, and the record is safe so far. -/
def EnforcedAndSafe (s : State) : Prop := Enforced s ∧ OnlySafeFrames thresholds s.results

theorem enforced_of_step {s s' : State} (henforced : Enforced s) (h : step s = .next s') : Enforced s' := by
  intro v hv
  rw [pending_of_step h] at hv
  exact henforced v (List.mem_of_mem_tail hv)

theorem onlySafeFrames_of_step {s s' : State} (henforced : Enforced s) (hsafe : OnlySafeFrames thresholds s.results)
    (h : step s = .next s') : OnlySafeFrames thresholds s'.results := by
  intro r hr f hf
  rw [results_of_step h, List.mem_append, Option.mem_toList, Option.bind_eq_some_iff] at hr
  obtain hold | ⟨v, hfirst, hnew⟩ := hr
  · exact hsafe r hold f hf
  · exact isSafe_readBack_of_resultOf (henforced v (List.mem_of_head? hfirst)) hnew hf

theorem enforcedAndSafe_of_step (s s' : State) (h : EnforcedAndSafe s) (hstep : step s = .next s') :
    EnforcedAndSafe s' := by
  obtain ⟨henforced, hsafe⟩ := h
  exact ⟨enforced_of_step henforced hstep, onlySafeFrames_of_step henforced hsafe hstep⟩

/-! ## The bypass -/

/-- R69, R87: `CRAFT.U` presented once, on a pulse longer than the maximum. -/
def bypassing : State := { State.reset with
  pending := [presentation (.craftU ⟨.A, .enabled, .forward, .hightime, 60⟩)] }

theorem results_afterRun_bypassing : (afterRun bypassing).results = [⟨false, some ⟨0xFE, 0x00, 0x3C⟩⟩] := by decide

theorem not_onlySafeFrames_bypassing : ¬ OnlySafeFrames thresholds (afterRun bypassing).results := by
  rw [results_afterRun_bypassing]
  intro h
  exact absurd (h _ List.mem_cons_self _ rfl) (by decide)

/-- Settles O49: `EnforcedAndSafe` is kept by every step and so by every run; `bypassing` records an unsafe frame. -/
theorem enforcedRunHandsOverOnlySafeFrames : Obligations.EnforcedRunHandsOverOnlySafeFrames := by
  unfold Obligations.EnforcedRunHandsOverOnlySafeFrames
  refine ⟨fun s s' n henforced hsafe hrun => ?_,
    bypassing, afterRun bypassing, rfl, run_pending_eq_afterRun bypassing, not_onlySafeFrames_bypassing⟩
  obtain ⟨-, hsafe'⟩ := run_keeps enforcedAndSafe_of_step n s s' ⟨henforced, hsafe⟩ hrun
  exact hsafe'

end Sys2Proof.Machine
end
